-- ==== Sys2Proof/Word.lean ====
section
/-! DEFINITION. The two machine widths (00_scope.md R7, R10): a Byte has 8 bits, a Word 16, both unsigned. -/

namespace Sys2Proof

/-- A data byte (R7, R10). -/
abbrev Byte := BitVec 8

/-- An address or program-counter word (R7, R10). -/
abbrev Word := BitVec 16

end Sys2Proof
end

