-- ==== Sys2Proof/Machine/Bits.lean ====
section
/-! DEFINITION. Byte order, extension and bit helpers of 00_scope.md R10, R11. -/

namespace Sys2Proof.Machine

/-- `lo(w) = w mod 256` (R11). -/
def lo (w : Word) : Byte := w.setWidth 8

/-- `hi(w) = w >> 8` (R11). -/
def hi (w : Word) : Byte := (w >>> 8).setWidth 8

/-- `word(h, l) = h × 256 + l` (R11). -/
def word (h l : Byte) : Word := h ++ l

/-- `zext_16(v)` (R11). -/
def zext16 (v : Byte) : Word := v.setWidth 16

/-- `sext_8(v)` as a Word, ready to be added modulo 65536 (R11, R137). -/
def sext16 (v : Byte) : Word := v.signExtend 16

/-- `v[i]`, bit i of a Byte (R10). -/
def bit (v : Byte) (i : Nat) : Bool := v.getLsbD i

end Sys2Proof.Machine
end

