-- ==== Sys2Proof/Syntax.lean ====
section
/-! DEFINITION. The instruction set as data: the thirteen addressing modes with their operand bytes (30_encoding.md R111 to R113,
40_addressing.md) and one constructor per instruction (00_scope.md R18: an instruction is a mnemonic, and each of its rows in
opcode_table.json pairs it with an addressing mode). A constructor and its mode together are one row of the table; where several
rows are equal in both (JAM, SHA, ANC, the NOP forms) the constructor also carries the row's opcode value. -/

namespace Sys2Proof

/-- The names of the thirteen addressing modes (R112, R131 to R143). -/
inductive AddrMode where
  | implied | accumulator | immediate | zeropage | zeropageX | zeropageY | relative
  | absolute | absoluteX | absoluteY | indirect | indirectX | indirectY
  deriving DecidableEq, Repr

/-- An addressing mode with the operand assembled from its operand bytes (R113). -/
inductive Mode where
  | implied
  | accumulator
  | immediate (v : Byte)
  | zeropage (a : Byte)
  | zeropageX (a : Byte)
  | zeropageY (a : Byte)
  | relative (d : Byte)
  | absolute (w : Word)
  | absoluteX (w : Word)
  | absoluteY (w : Word)
  | indirect (w : Word)
  | indirectX (a : Byte)
  | indirectY (a : Byte)
  deriving DecidableEq, Repr

/-- The addressing mode's name, without its operand. -/
def Mode.addrMode : Mode → AddrMode
  | .implied => .implied
  | .accumulator => .accumulator
  | .immediate _ => .immediate
  | .zeropage _ => .zeropage
  | .zeropageX _ => .zeropageX
  | .zeropageY _ => .zeropageY
  | .relative _ => .relative
  | .absolute _ => .absolute
  | .absoluteX _ => .absoluteX
  | .absoluteY _ => .absoluteY
  | .indirect _ => .indirect
  | .indirectX _ => .indirectX
  | .indirectY _ => .indirectY

/-- Operand bytes per addressing mode (R112). -/
def AddrMode.operandBytes : AddrMode → Nat
  | .implied | .accumulator => 0
  | .immediate | .zeropage | .zeropageX | .zeropageY | .relative | .indirectX | .indirectY => 1
  | .absolute | .absoluteX | .absoluteY | .indirect => 2

/-- The instructions: one constructor per mnemonic of opcode_table.json. -/
inductive Instr where
  /-- LDA: load accumulator (41_load_store_transfer.md R150). -/
  | lda (m : Mode)
  /-- LDX: load X (41_load_store_transfer.md R151). -/
  | ldx (m : Mode)
  /-- LDY: load Y (41_load_store_transfer.md R152). -/
  | ldy (m : Mode)
  /-- STA: store accumulator (41_load_store_transfer.md R153). -/
  | sta (m : Mode)
  /-- STX: store X (41_load_store_transfer.md R154). -/
  | stx (m : Mode)
  /-- STY: store Y (41_load_store_transfer.md R155). -/
  | sty (m : Mode)
  /-- TAX: transfer A to X (41_load_store_transfer.md R156). -/
  | tax
  /-- TAY: transfer A to Y (41_load_store_transfer.md R157). -/
  | tay
  /-- TXA: transfer X to A (41_load_store_transfer.md R158). -/
  | txa
  /-- TYA: transfer Y to A (41_load_store_transfer.md R159). -/
  | tya
  /-- TSX: transfer S to X (41_load_store_transfer.md R160). -/
  | tsx
  /-- TXS: transfer X to S (41_load_store_transfer.md R161). -/
  | txs
  /-- ADC: add with carry (42_arith_logic.md R172). -/
  | adc (m : Mode)
  /-- SBC: subtract with borrow (42_arith_logic.md R173). -/
  | sbc (m : Mode)
  /-- AND: bitwise AND with A (42_arith_logic.md R174). -/
  | and (m : Mode)
  /-- ORA: bitwise OR with A (42_arith_logic.md R175). -/
  | ora (m : Mode)
  /-- EOR: bitwise exclusive OR with A (42_arith_logic.md R176). -/
  | eor (m : Mode)
  /-- BIT: bit test (42_arith_logic.md R177). -/
  | bit (m : Mode)
  /-- CMP: compare with A (42_arith_logic.md R178). -/
  | cmp (m : Mode)
  /-- CPX: compare with X (42_arith_logic.md R179). -/
  | cpx (m : Mode)
  /-- CPY: compare with Y (42_arith_logic.md R180). -/
  | cpy (m : Mode)
  /-- INC: increment memory (42_arith_logic.md R181). -/
  | inc (m : Mode)
  /-- DEC: decrement memory (42_arith_logic.md R182). -/
  | dec (m : Mode)
  /-- INX: increment X (42_arith_logic.md R183). -/
  | inx
  /-- INY: increment Y (42_arith_logic.md R184). -/
  | iny
  /-- DEX: decrement X (42_arith_logic.md R185). -/
  | dex
  /-- DEY: decrement Y (42_arith_logic.md R186). -/
  | dey
  /-- ASL: arithmetic shift left (43_shift_rotate.md R201). -/
  | asl (m : Mode)
  /-- LSR: logical shift right (43_shift_rotate.md R202). -/
  | lsr (m : Mode)
  /-- ROL: rotate left through carry (43_shift_rotate.md R203). -/
  | rol (m : Mode)
  /-- ROR: rotate right through carry (43_shift_rotate.md R204). -/
  | ror (m : Mode)
  /-- JMP: jump (44_control.md R210). -/
  | jmp (m : Mode)
  /-- JSR: jump to subroutine (44_control.md R211). -/
  | jsr (target : Word)
  /-- RTS: return from subroutine (44_control.md R212). -/
  | rts
  /-- RTI: return from interrupt (44_control.md R213). -/
  | rti
  /-- BRK: software interrupt (44_control.md R216). -/
  | brk
  /-- BPL: branch if plus (44_control.md R218). -/
  | bpl (d : Byte)
  /-- BMI: branch if minus (44_control.md R219). -/
  | bmi (d : Byte)
  /-- BVC: branch if overflow clear (44_control.md R220). -/
  | bvc (d : Byte)
  /-- BVS: branch if overflow set (44_control.md R221). -/
  | bvs (d : Byte)
  /-- BCC: branch if carry clear (44_control.md R222). -/
  | bcc (d : Byte)
  /-- BCS: branch if carry set (44_control.md R223). -/
  | bcs (d : Byte)
  /-- BNE: branch if not equal (44_control.md R224). -/
  | bne (d : Byte)
  /-- BEQ: branch if equal (44_control.md R225). -/
  | beq (d : Byte)
  /-- PHA: push A (45_stack_flags_nop.md R240). -/
  | pha
  /-- PHP: push processor status (45_stack_flags_nop.md R241). -/
  | php
  /-- PLA: pull A (45_stack_flags_nop.md R242). -/
  | pla
  /-- PLP: pull processor status (45_stack_flags_nop.md R243). -/
  | plp
  /-- CLC: clear carry (45_stack_flags_nop.md R244). -/
  | clc
  /-- SEC: set carry (45_stack_flags_nop.md R245). -/
  | sec
  /-- CLI: clear interrupt disable (45_stack_flags_nop.md R246). -/
  | cli
  /-- SEI: set interrupt disable (45_stack_flags_nop.md R247). -/
  | sei
  /-- CLD: clear decimal (45_stack_flags_nop.md R248). -/
  | cld
  /-- SED: set decimal (45_stack_flags_nop.md R249). -/
  | sed
  /-- CLV: clear overflow (45_stack_flags_nop.md R250). -/
  | clv
  /-- NOP: no operation, documented and documented-illegal forms (45_stack_flags_nop.md, 46_illegal.md R251, R274, R275, R276). -/
  | nop (op : Byte) (m : Mode)
  /-- SLO: shift left, then OR into A (46_illegal.md R261). -/
  | slo (m : Mode)
  /-- RLA: rotate left, then AND into A (46_illegal.md R262). -/
  | rla (m : Mode)
  /-- SRE: shift right, then EOR into A (46_illegal.md R263). -/
  | sre (m : Mode)
  /-- RRA: rotate right, then add to A (46_illegal.md R264). -/
  | rra (m : Mode)
  /-- SAX: store A AND X (46_illegal.md R265). -/
  | sax (m : Mode)
  /-- LAX: load A and X (46_illegal.md R266). -/
  | lax (m : Mode)
  /-- DCP: decrement memory, then compare with A (46_illegal.md R267). -/
  | dcp (m : Mode)
  /-- ISC: increment memory, then subtract from A (46_illegal.md R268). -/
  | isc (m : Mode)
  /-- ANC: AND, then copy N to C (46_illegal.md R269). -/
  | anc (op : Byte) (v : Byte)
  /-- ALR: AND, then shift right A (46_illegal.md R270). -/
  | alr (v : Byte)
  /-- ARR: AND, then rotate right A (46_illegal.md R271). -/
  | arr (v : Byte)
  /-- SBX: (A AND X) minus immediate into X (46_illegal.md R272). -/
  | sbx (v : Byte)
  /-- USBC: SBC immediate, illegal copy (46_illegal.md R273). -/
  | usbc (v : Byte)
  /-- JAM: halt; raises IllegalOpcode (46_illegal.md R277). -/
  | jam (op : Byte)
  /-- ANE: raises IllegalOpcode (46_illegal.md R278). -/
  | ane
  /-- LXA: raises IllegalOpcode (46_illegal.md R279). -/
  | lxa
  /-- SHA: raises IllegalOpcode (46_illegal.md R280). -/
  | sha (op : Byte)
  /-- SHX: raises IllegalOpcode (46_illegal.md R281). -/
  | shx
  /-- SHY: raises IllegalOpcode (46_illegal.md R282). -/
  | shy
  /-- TAS: raises IllegalOpcode (46_illegal.md R283). -/
  | tas
  /-- LAS: raises IllegalOpcode (46_illegal.md R284). -/
  | las
  deriving DecidableEq, Repr

/-- The addressing mode execute() resolves for an instruction, with its operand. A faulting opcode raises IllegalOpcode before any
mode is resolved (60_exceptions.md R360, R370), so nothing is resolved for it; the mode of its cell of the decode table is
`Instr.addrMode`. -/
def Instr.mode : Instr → Mode
  | .lda m => m
  | .ldx m => m
  | .ldy m => m
  | .sta m => m
  | .stx m => m
  | .sty m => m
  | .tax => .implied
  | .tay => .implied
  | .txa => .implied
  | .tya => .implied
  | .tsx => .implied
  | .txs => .implied
  | .adc m => m
  | .sbc m => m
  | .and m => m
  | .ora m => m
  | .eor m => m
  | .bit m => m
  | .cmp m => m
  | .cpx m => m
  | .cpy m => m
  | .inc m => m
  | .dec m => m
  | .inx => .implied
  | .iny => .implied
  | .dex => .implied
  | .dey => .implied
  | .asl m => m
  | .lsr m => m
  | .rol m => m
  | .ror m => m
  | .jmp m => m
  | .jsr target => .absolute target
  | .rts => .implied
  | .rti => .implied
  | .brk => .implied
  | .bpl d => .relative d
  | .bmi d => .relative d
  | .bvc d => .relative d
  | .bvs d => .relative d
  | .bcc d => .relative d
  | .bcs d => .relative d
  | .bne d => .relative d
  | .beq d => .relative d
  | .pha => .implied
  | .php => .implied
  | .pla => .implied
  | .plp => .implied
  | .clc => .implied
  | .sec => .implied
  | .cli => .implied
  | .sei => .implied
  | .cld => .implied
  | .sed => .implied
  | .clv => .implied
  | .nop _ m => m
  | .slo m => m
  | .rla m => m
  | .sre m => m
  | .rra m => m
  | .sax m => m
  | .lax m => m
  | .dcp m => m
  | .isc m => m
  | .anc _ v => .immediate v
  | .alr v => .immediate v
  | .arr v => .immediate v
  | .sbx v => .immediate v
  | .usbc v => .immediate v
  | .jam _ => .implied
  | .ane => .implied
  | .lxa => .implied
  | .sha _ => .implied
  | .shx => .implied
  | .shy => .implied
  | .tas => .implied
  | .las => .implied

end Sys2Proof
end

