-- ==== Sys2Proof/WellFormed.lean ====
section
/-! DEFINITION. Which instruction terms are instructions of the machine: every mnemonic with the addressing modes its rule lists
(30_encoding.md R114, R118 and the "Encodings" of R150 to R284), and, where a constructor carries its opcode value, one of the
values its rule lists. -/

namespace Sys2Proof

/-- The mode is one of those listed. -/
def Mode.among (m : Mode) (l : List AddrMode) : Bool := l.contains m.addrMode

/-- The opcode values of the NOP forms, by mode (R251, R274, R275, R276). -/
def nopOpcodes : AddrMode → List Byte
  | .implied => [0x1A, 0x3A, 0x5A, 0x7A, 0xDA, 0xEA, 0xFA]
  | .immediate => [0x80, 0x82, 0x89, 0xC2, 0xE2]
  | .zeropage => [0x04, 0x44, 0x64]
  | .zeropageX => [0x14, 0x34, 0x54, 0x74, 0xD4, 0xF4]
  | .absolute => [0x0C]
  | .absoluteX => [0x1C, 0x3C, 0x5C, 0x7C, 0xDC, 0xFC]
  | .accumulator | .zeropageY | .relative | .absoluteY | .indirect | .indirectX | .indirectY => []

/-- The twelve JAM opcode values (R277). -/
def jamOpcodes : List Byte := [0x02, 0x12, 0x22, 0x32, 0x42, 0x52, 0x62, 0x72, 0x92, 0xB2, 0xD2, 0xF2]

/-- The two SHA opcode values (R280). -/
def shaOpcodes : List Byte := [0x93, 0x9F]

/-- The two ANC opcode values (R269). -/
def ancOpcodes : List Byte := [0x0B, 0x2B]

/-- The modes of the eight-mode read instructions (R150, R172 to R176, R178). -/
def readModes : List AddrMode :=
  [.immediate, .zeropage, .zeropageX, .absolute, .absoluteX, .absoluteY, .indirectX, .indirectY]

/-- The modes of the shifts (R201 to R204). -/
def shiftModes : List AddrMode := [.accumulator, .zeropage, .zeropageX, .absolute, .absoluteX]

/-- The modes of the combined read-modify-write instructions (R261 to R264, R267, R268). -/
def comboModes : List AddrMode :=
  [.zeropage, .zeropageX, .absolute, .absoluteX, .absoluteY, .indirectX, .indirectY]

/-- The instruction is one of the machine's (R118: no other mode of a mnemonic has an opcode). -/
def Instr.wf : Instr → Bool
  | .lda m => m.among readModes
  | .ldx m => m.among [.immediate, .zeropage, .zeropageY, .absolute, .absoluteY]
  | .ldy m => m.among [.immediate, .zeropage, .zeropageX, .absolute, .absoluteX]
  | .sta m => m.among comboModes
  | .stx m => m.among [.zeropage, .zeropageY, .absolute]
  | .sty m => m.among [.zeropage, .zeropageX, .absolute]
  | .tax => true
  | .tay => true
  | .txa => true
  | .tya => true
  | .tsx => true
  | .txs => true
  | .adc m => m.among readModes
  | .sbc m => m.among readModes
  | .and m => m.among readModes
  | .ora m => m.among readModes
  | .eor m => m.among readModes
  | .bit m => m.among [.zeropage, .absolute]
  | .cmp m => m.among readModes
  | .cpx m => m.among [.immediate, .zeropage, .absolute]
  | .cpy m => m.among [.immediate, .zeropage, .absolute]
  | .inc m => m.among [.zeropage, .zeropageX, .absolute, .absoluteX]
  | .dec m => m.among [.zeropage, .zeropageX, .absolute, .absoluteX]
  | .inx => true
  | .iny => true
  | .dex => true
  | .dey => true
  | .asl m => m.among shiftModes
  | .lsr m => m.among shiftModes
  | .rol m => m.among shiftModes
  | .ror m => m.among shiftModes
  | .jmp m => m.among [.absolute, .indirect]
  | .jsr _ => true
  | .rts => true
  | .rti => true
  | .brk => true
  | .bpl _ => true
  | .bmi _ => true
  | .bvc _ => true
  | .bvs _ => true
  | .bcc _ => true
  | .bcs _ => true
  | .bne _ => true
  | .beq _ => true
  | .pha => true
  | .php => true
  | .pla => true
  | .plp => true
  | .clc => true
  | .sec => true
  | .cli => true
  | .sei => true
  | .cld => true
  | .sed => true
  | .clv => true
  | .nop op m => (nopOpcodes m.addrMode).contains op
  | .slo m => m.among comboModes
  | .rla m => m.among comboModes
  | .sre m => m.among comboModes
  | .rra m => m.among comboModes
  | .sax m => m.among [.zeropage, .zeropageY, .absolute, .indirectX]
  | .lax m => m.among [.zeropage, .zeropageY, .absolute, .absoluteY, .indirectX, .indirectY]
  | .dcp m => m.among comboModes
  | .isc m => m.among comboModes
  | .anc op _ => ancOpcodes.contains op
  | .alr _ => true
  | .arr _ => true
  | .sbx _ => true
  | .usbc _ => true
  | .jam op => jamOpcodes.contains op
  | .ane => true
  | .lxa => true
  | .sha op => shaOpcodes.contains op
  | .shx => true
  | .shy => true
  | .tas => true
  | .las => true

end Sys2Proof
end

