-- ==== Sys2Proof/Decode.lean ====
section
/-! DEFINITION. The decoder and, after it, the encoder. The decode table is 30_encoding.md R114, one function per row of that
table and one arm per cell; it is total (R120). The encoder is written from the "Encodings" of each instruction's own rule. -/

namespace Sys2Proof

/-- The 20 faulting opcodes' instructions (R116). -/
def faulting : Instr → Bool
  | .jam _ | .ane | .lxa | .sha _ | .shx | .shy | .tas | .las => true
  | _ => false

/-- The addressing mode of an instruction's cell of the decode table, the faulting cells' included (R114; 46_illegal.md R277 to
R284). -/
def Instr.addrMode : Instr → AddrMode
  | .jam _ => .implied
  | .ane | .lxa => .immediate
  | .sha op => if op = 0x93 then .indirectY else .absoluteY
  | .shx | .tas | .las => .absoluteY
  | .shy => .absoluteX
  | i => i.mode.addrMode

/-- The length of an instruction in bytes: `1 + operand bytes of its mode` (R119). -/
def Instr.length (i : Instr) : Nat := 1 + i.addrMode.operandBytes

/-- How many of an instruction's bytes execute() fetches: all of them, but for a faulting opcode the opcode byte only, since "no
operand byte is fetched" (60_exceptions.md R360). -/
def Instr.fetchedBytes (i : Instr) : Nat := if faulting i then 1 else i.length

/-- A cell of the decode table: its addressing mode, whether its class is the faulting one, and the instruction it makes of its
operand bytes (R110, R113, R114, R116). -/
structure Entry where
  mode : AddrMode
  faults : Bool
  make : Byte → Byte → Instr

/-- The operand bytes execute() fetches for a cell: its mode's, but none for a faulting cell (R112; 60_exceptions.md R360). -/
def Entry.operands (e : Entry) : Nat := if e.faults then 0 else e.mode.operandBytes

namespace Entry

/-- A faulting cell. -/
def fault (mode : AddrMode) (i : Instr) : Entry := ⟨mode, true, fun _ _ => i⟩
/-- A one-byte cell (format F1). -/
def impl (i : Instr) : Entry := ⟨.implied, false, fun _ _ => i⟩
/-- A one-byte cell whose instruction takes its mode as an argument. -/
def impM (k : Mode → Instr) : Entry := ⟨.implied, false, fun _ _ => k .implied⟩
/-- Accumulator mode. -/
def accu (k : Mode → Instr) : Entry := ⟨.accumulator, false, fun _ _ => k .accumulator⟩
/-- Immediate mode. -/
def imm (k : Mode → Instr) : Entry := ⟨.immediate, false, fun b _ => k (.immediate b)⟩
/-- Immediate mode of an instruction that has no other. -/
def byte (k : Byte → Instr) : Entry := ⟨.immediate, false, fun b _ => k b⟩
/-- Relative mode: the operand byte is the displacement. -/
def rel (k : Byte → Instr) : Entry := ⟨.relative, false, fun b _ => k b⟩
/-- Zeropage mode. -/
def zp (k : Mode → Instr) : Entry := ⟨.zeropage, false, fun b _ => k (.zeropage b)⟩
/-- ZeropageX mode. -/
def zpX (k : Mode → Instr) : Entry := ⟨.zeropageX, false, fun b _ => k (.zeropageX b)⟩
/-- ZeropageY mode. -/
def zpY (k : Mode → Instr) : Entry := ⟨.zeropageY, false, fun b _ => k (.zeropageY b)⟩
/-- IndirectX mode. -/
def indX (k : Mode → Instr) : Entry := ⟨.indirectX, false, fun b _ => k (.indirectX b)⟩
/-- IndirectY mode. -/
def indY (k : Mode → Instr) : Entry := ⟨.indirectY, false, fun b _ => k (.indirectY b)⟩
/-- Absolute mode: the operand is `word(byte2, byte1)`. -/
def abs (k : Mode → Instr) : Entry := ⟨.absolute, false, fun b c => k (.absolute (Machine.word c b))⟩
/-- AbsoluteX mode. -/
def absX (k : Mode → Instr) : Entry := ⟨.absoluteX, false, fun b c => k (.absoluteX (Machine.word c b))⟩
/-- AbsoluteY mode. -/
def absY (k : Mode → Instr) : Entry := ⟨.absoluteY, false, fun b c => k (.absoluteY (Machine.word c b))⟩
/-- Indirect mode. -/
def ind (k : Mode → Instr) : Entry := ⟨.indirect, false, fun b c => k (.indirect (Machine.word c b))⟩
/-- Absolute mode of JSR: the operand is the target word. -/
def target (k : Word → Instr) : Entry := ⟨.absolute, false, fun b c => k (Machine.word c b)⟩

end Entry

/-! The decode table, row by row (R114): the row is the opcode's high nibble, the arm its low nibble. -/

/-- Opcodes $00 to $0F. -/
def decodeRow0 : Nat → Entry
  | 0x0 => .impl .brk
  | 0x1 => .indX .ora
  | 0x2 => .fault .implied (.jam 0x02)
  | 0x3 => .indX .slo
  | 0x4 => .zp (.nop 0x04)
  | 0x5 => .zp .ora
  | 0x6 => .zp .asl
  | 0x7 => .zp .slo
  | 0x8 => .impl .php
  | 0x9 => .imm .ora
  | 0xA => .accu .asl
  | 0xB => .byte (.anc 0x0B)
  | 0xC => .abs (.nop 0x0C)
  | 0xD => .abs .ora
  | 0xE => .abs .asl
  | _ => .abs .slo

/-- Opcodes $10 to $1F. -/
def decodeRow1 : Nat → Entry
  | 0x0 => .rel .bpl
  | 0x1 => .indY .ora
  | 0x2 => .fault .implied (.jam 0x12)
  | 0x3 => .indY .slo
  | 0x4 => .zpX (.nop 0x14)
  | 0x5 => .zpX .ora
  | 0x6 => .zpX .asl
  | 0x7 => .zpX .slo
  | 0x8 => .impl .clc
  | 0x9 => .absY .ora
  | 0xA => .impM (.nop 0x1A)
  | 0xB => .absY .slo
  | 0xC => .absX (.nop 0x1C)
  | 0xD => .absX .ora
  | 0xE => .absX .asl
  | _ => .absX .slo

/-- Opcodes $20 to $2F. -/
def decodeRow2 : Nat → Entry
  | 0x0 => .target .jsr
  | 0x1 => .indX .and
  | 0x2 => .fault .implied (.jam 0x22)
  | 0x3 => .indX .rla
  | 0x4 => .zp .bit
  | 0x5 => .zp .and
  | 0x6 => .zp .rol
  | 0x7 => .zp .rla
  | 0x8 => .impl .plp
  | 0x9 => .imm .and
  | 0xA => .accu .rol
  | 0xB => .byte (.anc 0x2B)
  | 0xC => .abs .bit
  | 0xD => .abs .and
  | 0xE => .abs .rol
  | _ => .abs .rla

/-- Opcodes $30 to $3F. -/
def decodeRow3 : Nat → Entry
  | 0x0 => .rel .bmi
  | 0x1 => .indY .and
  | 0x2 => .fault .implied (.jam 0x32)
  | 0x3 => .indY .rla
  | 0x4 => .zpX (.nop 0x34)
  | 0x5 => .zpX .and
  | 0x6 => .zpX .rol
  | 0x7 => .zpX .rla
  | 0x8 => .impl .sec
  | 0x9 => .absY .and
  | 0xA => .impM (.nop 0x3A)
  | 0xB => .absY .rla
  | 0xC => .absX (.nop 0x3C)
  | 0xD => .absX .and
  | 0xE => .absX .rol
  | _ => .absX .rla

/-- Opcodes $40 to $4F. -/
def decodeRow4 : Nat → Entry
  | 0x0 => .impl .rti
  | 0x1 => .indX .eor
  | 0x2 => .fault .implied (.jam 0x42)
  | 0x3 => .indX .sre
  | 0x4 => .zp (.nop 0x44)
  | 0x5 => .zp .eor
  | 0x6 => .zp .lsr
  | 0x7 => .zp .sre
  | 0x8 => .impl .pha
  | 0x9 => .imm .eor
  | 0xA => .accu .lsr
  | 0xB => .byte .alr
  | 0xC => .abs .jmp
  | 0xD => .abs .eor
  | 0xE => .abs .lsr
  | _ => .abs .sre

/-- Opcodes $50 to $5F. -/
def decodeRow5 : Nat → Entry
  | 0x0 => .rel .bvc
  | 0x1 => .indY .eor
  | 0x2 => .fault .implied (.jam 0x52)
  | 0x3 => .indY .sre
  | 0x4 => .zpX (.nop 0x54)
  | 0x5 => .zpX .eor
  | 0x6 => .zpX .lsr
  | 0x7 => .zpX .sre
  | 0x8 => .impl .cli
  | 0x9 => .absY .eor
  | 0xA => .impM (.nop 0x5A)
  | 0xB => .absY .sre
  | 0xC => .absX (.nop 0x5C)
  | 0xD => .absX .eor
  | 0xE => .absX .lsr
  | _ => .absX .sre

/-- Opcodes $60 to $6F. -/
def decodeRow6 : Nat → Entry
  | 0x0 => .impl .rts
  | 0x1 => .indX .adc
  | 0x2 => .fault .implied (.jam 0x62)
  | 0x3 => .indX .rra
  | 0x4 => .zp (.nop 0x64)
  | 0x5 => .zp .adc
  | 0x6 => .zp .ror
  | 0x7 => .zp .rra
  | 0x8 => .impl .pla
  | 0x9 => .imm .adc
  | 0xA => .accu .ror
  | 0xB => .byte .arr
  | 0xC => .ind .jmp
  | 0xD => .abs .adc
  | 0xE => .abs .ror
  | _ => .abs .rra

/-- Opcodes $70 to $7F. -/
def decodeRow7 : Nat → Entry
  | 0x0 => .rel .bvs
  | 0x1 => .indY .adc
  | 0x2 => .fault .implied (.jam 0x72)
  | 0x3 => .indY .rra
  | 0x4 => .zpX (.nop 0x74)
  | 0x5 => .zpX .adc
  | 0x6 => .zpX .ror
  | 0x7 => .zpX .rra
  | 0x8 => .impl .sei
  | 0x9 => .absY .adc
  | 0xA => .impM (.nop 0x7A)
  | 0xB => .absY .rra
  | 0xC => .absX (.nop 0x7C)
  | 0xD => .absX .adc
  | 0xE => .absX .ror
  | _ => .absX .rra

/-- Opcodes $80 to $8F. -/
def decodeRow8 : Nat → Entry
  | 0x0 => .imm (.nop 0x80)
  | 0x1 => .indX .sta
  | 0x2 => .imm (.nop 0x82)
  | 0x3 => .indX .sax
  | 0x4 => .zp .sty
  | 0x5 => .zp .sta
  | 0x6 => .zp .stx
  | 0x7 => .zp .sax
  | 0x8 => .impl .dey
  | 0x9 => .imm (.nop 0x89)
  | 0xA => .impl .txa
  | 0xB => .fault .immediate .ane
  | 0xC => .abs .sty
  | 0xD => .abs .sta
  | 0xE => .abs .stx
  | _ => .abs .sax

/-- Opcodes $90 to $9F. -/
def decodeRow9 : Nat → Entry
  | 0x0 => .rel .bcc
  | 0x1 => .indY .sta
  | 0x2 => .fault .implied (.jam 0x92)
  | 0x3 => .fault .indirectY (.sha 0x93)
  | 0x4 => .zpX .sty
  | 0x5 => .zpX .sta
  | 0x6 => .zpY .stx
  | 0x7 => .zpY .sax
  | 0x8 => .impl .tya
  | 0x9 => .absY .sta
  | 0xA => .impl .txs
  | 0xB => .fault .absoluteY .tas
  | 0xC => .fault .absoluteX .shy
  | 0xD => .absX .sta
  | 0xE => .fault .absoluteY .shx
  | _ => .fault .absoluteY (.sha 0x9F)

/-- Opcodes $A0 to $AF. -/
def decodeRowA : Nat → Entry
  | 0x0 => .imm .ldy
  | 0x1 => .indX .lda
  | 0x2 => .imm .ldx
  | 0x3 => .indX .lax
  | 0x4 => .zp .ldy
  | 0x5 => .zp .lda
  | 0x6 => .zp .ldx
  | 0x7 => .zp .lax
  | 0x8 => .impl .tay
  | 0x9 => .imm .lda
  | 0xA => .impl .tax
  | 0xB => .fault .immediate .lxa
  | 0xC => .abs .ldy
  | 0xD => .abs .lda
  | 0xE => .abs .ldx
  | _ => .abs .lax

/-- Opcodes $B0 to $BF. -/
def decodeRowB : Nat → Entry
  | 0x0 => .rel .bcs
  | 0x1 => .indY .lda
  | 0x2 => .fault .implied (.jam 0xB2)
  | 0x3 => .indY .lax
  | 0x4 => .zpX .ldy
  | 0x5 => .zpX .lda
  | 0x6 => .zpY .ldx
  | 0x7 => .zpY .lax
  | 0x8 => .impl .clv
  | 0x9 => .absY .lda
  | 0xA => .impl .tsx
  | 0xB => .fault .absoluteY .las
  | 0xC => .absX .ldy
  | 0xD => .absX .lda
  | 0xE => .absY .ldx
  | _ => .absY .lax

/-- Opcodes $C0 to $CF. -/
def decodeRowC : Nat → Entry
  | 0x0 => .imm .cpy
  | 0x1 => .indX .cmp
  | 0x2 => .imm (.nop 0xC2)
  | 0x3 => .indX .dcp
  | 0x4 => .zp .cpy
  | 0x5 => .zp .cmp
  | 0x6 => .zp .dec
  | 0x7 => .zp .dcp
  | 0x8 => .impl .iny
  | 0x9 => .imm .cmp
  | 0xA => .impl .dex
  | 0xB => .byte .sbx
  | 0xC => .abs .cpy
  | 0xD => .abs .cmp
  | 0xE => .abs .dec
  | _ => .abs .dcp

/-- Opcodes $D0 to $DF. -/
def decodeRowD : Nat → Entry
  | 0x0 => .rel .bne
  | 0x1 => .indY .cmp
  | 0x2 => .fault .implied (.jam 0xD2)
  | 0x3 => .indY .dcp
  | 0x4 => .zpX (.nop 0xD4)
  | 0x5 => .zpX .cmp
  | 0x6 => .zpX .dec
  | 0x7 => .zpX .dcp
  | 0x8 => .impl .cld
  | 0x9 => .absY .cmp
  | 0xA => .impM (.nop 0xDA)
  | 0xB => .absY .dcp
  | 0xC => .absX (.nop 0xDC)
  | 0xD => .absX .cmp
  | 0xE => .absX .dec
  | _ => .absX .dcp

/-- Opcodes $E0 to $EF. -/
def decodeRowE : Nat → Entry
  | 0x0 => .imm .cpx
  | 0x1 => .indX .sbc
  | 0x2 => .imm (.nop 0xE2)
  | 0x3 => .indX .isc
  | 0x4 => .zp .cpx
  | 0x5 => .zp .sbc
  | 0x6 => .zp .inc
  | 0x7 => .zp .isc
  | 0x8 => .impl .inx
  | 0x9 => .imm .sbc
  | 0xA => .impM (.nop 0xEA)
  | 0xB => .byte .usbc
  | 0xC => .abs .cpx
  | 0xD => .abs .sbc
  | 0xE => .abs .inc
  | _ => .abs .isc

/-- Opcodes $F0 to $FF. -/
def decodeRowF : Nat → Entry
  | 0x0 => .rel .beq
  | 0x1 => .indY .sbc
  | 0x2 => .fault .implied (.jam 0xF2)
  | 0x3 => .indY .isc
  | 0x4 => .zpX (.nop 0xF4)
  | 0x5 => .zpX .sbc
  | 0x6 => .zpX .inc
  | 0x7 => .zpX .isc
  | 0x8 => .impl .sed
  | 0x9 => .absY .sbc
  | 0xA => .impM (.nop 0xFA)
  | 0xB => .absY .isc
  | 0xC => .absX (.nop 0xFC)
  | 0xD => .absX .sbc
  | 0xE => .absX .inc
  | _ => .absX .isc

/-- The 256-entry decode table: total, and independent of machine state (R119, R120). -/
def decodeEntry (op : Byte) : Entry :=
  match op.toNat / 16 with
  | 0x0 => decodeRow0 (op.toNat % 16)
  | 0x1 => decodeRow1 (op.toNat % 16)
  | 0x2 => decodeRow2 (op.toNat % 16)
  | 0x3 => decodeRow3 (op.toNat % 16)
  | 0x4 => decodeRow4 (op.toNat % 16)
  | 0x5 => decodeRow5 (op.toNat % 16)
  | 0x6 => decodeRow6 (op.toNat % 16)
  | 0x7 => decodeRow7 (op.toNat % 16)
  | 0x8 => decodeRow8 (op.toNat % 16)
  | 0x9 => decodeRow9 (op.toNat % 16)
  | 0xA => decodeRowA (op.toNat % 16)
  | 0xB => decodeRowB (op.toNat % 16)
  | 0xC => decodeRowC (op.toNat % 16)
  | 0xD => decodeRowD (op.toNat % 16)
  | 0xE => decodeRowE (op.toNat % 16)
  | _ => decodeRowF (op.toNat % 16)

/-- Why bytes are no instruction: only for want of bytes, since every opcode value has an entry (R120). -/
inductive DecodeReject where
  /-- There is no byte at all. -/
  | noBytes
  /-- The operand bytes of this opcode are not all there. -/
  | truncated (op : Byte)
  deriving DecidableEq, Repr

/-- Decode the first instruction of a byte sequence and answer it with the bytes after those that execute() fetches for it. -/
def decode : List Byte → Except DecodeReject (Instr × List Byte)
  | [] => .error .noBytes
  | op :: rest =>
    match (decodeEntry op).operands, rest with
    | 0, rest => .ok ((decodeEntry op).make 0 0, rest)
    | 1, b :: rest => .ok ((decodeEntry op).make b 0, rest)
    | 2, b :: c :: rest => .ok ((decodeEntry op).make b c, rest)
    | _, _ => .error (.truncated op)

/-- The three bytes of a table word, the first at its least significant end, with every bit above `nbits` zero. -/
def tableWordBytes (nbits w : Nat) : List Byte :=
  let v := w % 2 ^ nbits
  [BitVec.ofNat 8 v, BitVec.ofNat 8 (v / 256), BitVec.ofNat 8 (v / 65536)]

/-- The instruction the decoder reads from a word numbered as opcode_table.json numbers it. -/
def decodeTableWord (nbits w : Nat) : Option Instr :=
  match decode (tableWordBytes nbits w) with
  | .ok (i, _) => some i
  | .error _ => none

/-! The encoder. -/

/-- The opcode value a rule's "Encodings" gives for a mode. -/
def Mode.opcodeIn (m : Mode) (encodings : List (AddrMode × Byte)) : Option Byte := encodings.lookup m.addrMode

/-- The opcode value of an instruction; none for a term that is no instruction of the machine (R118). -/
def Instr.opcode : Instr → Option Byte
  | .lda m => m.opcodeIn
      [(.immediate, 0xA9), (.zeropage, 0xA5), (.zeropageX, 0xB5), (.absolute, 0xAD),
       (.absoluteX, 0xBD), (.absoluteY, 0xB9), (.indirectX, 0xA1), (.indirectY, 0xB1)]
  | .ldx m => m.opcodeIn
      [(.immediate, 0xA2), (.zeropage, 0xA6), (.zeropageY, 0xB6), (.absolute, 0xAE),
       (.absoluteY, 0xBE)]
  | .ldy m => m.opcodeIn
      [(.immediate, 0xA0), (.zeropage, 0xA4), (.zeropageX, 0xB4), (.absolute, 0xAC),
       (.absoluteX, 0xBC)]
  | .sta m => m.opcodeIn
      [(.zeropage, 0x85), (.zeropageX, 0x95), (.absolute, 0x8D), (.absoluteX, 0x9D),
       (.absoluteY, 0x99), (.indirectX, 0x81), (.indirectY, 0x91)]
  | .stx m => m.opcodeIn [(.zeropage, 0x86), (.zeropageY, 0x96), (.absolute, 0x8E)]
  | .sty m => m.opcodeIn [(.zeropage, 0x84), (.zeropageX, 0x94), (.absolute, 0x8C)]
  | .tax => some 0xAA
  | .tay => some 0xA8
  | .txa => some 0x8A
  | .tya => some 0x98
  | .tsx => some 0xBA
  | .txs => some 0x9A
  | .adc m => m.opcodeIn
      [(.immediate, 0x69), (.zeropage, 0x65), (.zeropageX, 0x75), (.absolute, 0x6D),
       (.absoluteX, 0x7D), (.absoluteY, 0x79), (.indirectX, 0x61), (.indirectY, 0x71)]
  | .sbc m => m.opcodeIn
      [(.immediate, 0xE9), (.zeropage, 0xE5), (.zeropageX, 0xF5), (.absolute, 0xED),
       (.absoluteX, 0xFD), (.absoluteY, 0xF9), (.indirectX, 0xE1), (.indirectY, 0xF1)]
  | .and m => m.opcodeIn
      [(.immediate, 0x29), (.zeropage, 0x25), (.zeropageX, 0x35), (.absolute, 0x2D),
       (.absoluteX, 0x3D), (.absoluteY, 0x39), (.indirectX, 0x21), (.indirectY, 0x31)]
  | .ora m => m.opcodeIn
      [(.immediate, 0x09), (.zeropage, 0x05), (.zeropageX, 0x15), (.absolute, 0x0D),
       (.absoluteX, 0x1D), (.absoluteY, 0x19), (.indirectX, 0x01), (.indirectY, 0x11)]
  | .eor m => m.opcodeIn
      [(.immediate, 0x49), (.zeropage, 0x45), (.zeropageX, 0x55), (.absolute, 0x4D),
       (.absoluteX, 0x5D), (.absoluteY, 0x59), (.indirectX, 0x41), (.indirectY, 0x51)]
  | .bit m => m.opcodeIn [(.zeropage, 0x24), (.absolute, 0x2C)]
  | .cmp m => m.opcodeIn
      [(.immediate, 0xC9), (.zeropage, 0xC5), (.zeropageX, 0xD5), (.absolute, 0xCD),
       (.absoluteX, 0xDD), (.absoluteY, 0xD9), (.indirectX, 0xC1), (.indirectY, 0xD1)]
  | .cpx m => m.opcodeIn [(.immediate, 0xE0), (.zeropage, 0xE4), (.absolute, 0xEC)]
  | .cpy m => m.opcodeIn [(.immediate, 0xC0), (.zeropage, 0xC4), (.absolute, 0xCC)]
  | .inc m => m.opcodeIn [(.zeropage, 0xE6), (.zeropageX, 0xF6), (.absolute, 0xEE), (.absoluteX, 0xFE)]
  | .dec m => m.opcodeIn [(.zeropage, 0xC6), (.zeropageX, 0xD6), (.absolute, 0xCE), (.absoluteX, 0xDE)]
  | .inx => some 0xE8
  | .iny => some 0xC8
  | .dex => some 0xCA
  | .dey => some 0x88
  | .asl m => m.opcodeIn
      [(.accumulator, 0x0A), (.zeropage, 0x06), (.zeropageX, 0x16), (.absolute, 0x0E),
       (.absoluteX, 0x1E)]
  | .lsr m => m.opcodeIn
      [(.accumulator, 0x4A), (.zeropage, 0x46), (.zeropageX, 0x56), (.absolute, 0x4E),
       (.absoluteX, 0x5E)]
  | .rol m => m.opcodeIn
      [(.accumulator, 0x2A), (.zeropage, 0x26), (.zeropageX, 0x36), (.absolute, 0x2E),
       (.absoluteX, 0x3E)]
  | .ror m => m.opcodeIn
      [(.accumulator, 0x6A), (.zeropage, 0x66), (.zeropageX, 0x76), (.absolute, 0x6E),
       (.absoluteX, 0x7E)]
  | .jmp m => m.opcodeIn [(.absolute, 0x4C), (.indirect, 0x6C)]
  | .jsr _ => some 0x20
  | .rts => some 0x60
  | .rti => some 0x40
  | .brk => some 0x00
  | .bpl _ => some 0x10
  | .bmi _ => some 0x30
  | .bvc _ => some 0x50
  | .bvs _ => some 0x70
  | .bcc _ => some 0x90
  | .bcs _ => some 0xB0
  | .bne _ => some 0xD0
  | .beq _ => some 0xF0
  | .pha => some 0x48
  | .php => some 0x08
  | .pla => some 0x68
  | .plp => some 0x28
  | .clc => some 0x18
  | .sec => some 0x38
  | .cli => some 0x58
  | .sei => some 0x78
  | .cld => some 0xD8
  | .sed => some 0xF8
  | .clv => some 0xB8
  | .nop op m => if (nopOpcodes m.addrMode).contains op then some op else none
  | .slo m => m.opcodeIn
      [(.zeropage, 0x07), (.zeropageX, 0x17), (.absolute, 0x0F), (.absoluteX, 0x1F),
       (.absoluteY, 0x1B), (.indirectX, 0x03), (.indirectY, 0x13)]
  | .rla m => m.opcodeIn
      [(.zeropage, 0x27), (.zeropageX, 0x37), (.absolute, 0x2F), (.absoluteX, 0x3F),
       (.absoluteY, 0x3B), (.indirectX, 0x23), (.indirectY, 0x33)]
  | .sre m => m.opcodeIn
      [(.zeropage, 0x47), (.zeropageX, 0x57), (.absolute, 0x4F), (.absoluteX, 0x5F),
       (.absoluteY, 0x5B), (.indirectX, 0x43), (.indirectY, 0x53)]
  | .rra m => m.opcodeIn
      [(.zeropage, 0x67), (.zeropageX, 0x77), (.absolute, 0x6F), (.absoluteX, 0x7F),
       (.absoluteY, 0x7B), (.indirectX, 0x63), (.indirectY, 0x73)]
  | .sax m => m.opcodeIn [(.zeropage, 0x87), (.zeropageY, 0x97), (.absolute, 0x8F), (.indirectX, 0x83)]
  | .lax m => m.opcodeIn
      [(.zeropage, 0xA7), (.zeropageY, 0xB7), (.absolute, 0xAF), (.absoluteY, 0xBF),
       (.indirectX, 0xA3), (.indirectY, 0xB3)]
  | .dcp m => m.opcodeIn
      [(.zeropage, 0xC7), (.zeropageX, 0xD7), (.absolute, 0xCF), (.absoluteX, 0xDF),
       (.absoluteY, 0xDB), (.indirectX, 0xC3), (.indirectY, 0xD3)]
  | .isc m => m.opcodeIn
      [(.zeropage, 0xE7), (.zeropageX, 0xF7), (.absolute, 0xEF), (.absoluteX, 0xFF),
       (.absoluteY, 0xFB), (.indirectX, 0xE3), (.indirectY, 0xF3)]
  | .anc op _ => if ancOpcodes.contains op then some op else none
  | .alr _ => some 0x4B
  | .arr _ => some 0x6B
  | .sbx _ => some 0xCB
  | .usbc _ => some 0xEB
  | .jam op => if jamOpcodes.contains op then some op else none
  | .ane => some 0x8B
  | .lxa => some 0xAB
  | .sha op => if shaOpcodes.contains op then some op else none
  | .shx => some 0x9E
  | .shy => some 0x9C
  | .tas => some 0x9B
  | .las => some 0xBB

/-- The operand bytes of a mode, low byte first (R111, R113). -/
def Mode.bytes : Mode → List Byte
  | .implied | .accumulator => []
  | .immediate b | .zeropage b | .zeropageX b | .zeropageY b | .relative b | .indirectX b | .indirectY b => [b]
  | .absolute w | .absoluteX w | .absoluteY w | .indirect w => [Machine.lo w, Machine.hi w]

/-- The bytes of an instruction: its opcode, then its operand bytes (R111); nothing for a term that is no instruction. -/
def encode (i : Instr) : List Byte :=
  match i.opcode with
  | some op => op :: i.mode.bytes
  | none => []

end Sys2Proof
end

