-- ==== Sys2Proof/Machine/Memory.lean ====
section
/-! DEFINITION. One byte-addressed memory as plain data: (address, byte) pairs with strictly rising addresses and no entry equal
to what an unlisted address reads as. Every memory of the machine (10_state.md R30 to R33) is one of these. -/

namespace Sys2Proof.Machine

/-- A memory: the listed bytes; every other address reads as `Memory.blank`. -/
abbrev Memory := List Host.Cell

namespace Memory

/-- What an unlisted address reads as: $00, the reset contents of every memory (R40). -/
def blank : Byte := 0

/-- The byte at an address. -/
def read : Memory → Nat → Byte
  | [], _ => blank
  | (b, v) :: rest, a => if a = b then v else read rest a

/-- Put a cell before the cells of higher addresses, unless its byte is what an unlisted address reads as. -/
def cons (a : Nat) (v : Byte) (m : Memory) : Memory := if v = blank then m else (a, v) :: m

/-- Store a byte; the canonical form is kept, so that equal memories are equal lists. -/
def write : Memory → Nat → Byte → Memory
  | [], a, v => cons a v []
  | (b, w) :: rest, a, v =>
    if a < b then cons a v ((b, w) :: rest)
    else if a = b then cons a v rest
    else (b, w) :: write rest a v

/-- The memory that holds `f a` at every address `a` from `from_` up, for `n` addresses. -/
def ofFn (f : Nat → Byte) : (from_ n : Nat) → Memory
  | _, 0 => []
  | a, n + 1 => cons a (f a) (ofFn f (a + 1) n)

/-- The memory that holds a list of bytes from address `from_` up. -/
def ofList : (from_ : Nat) → List Byte → Memory
  | _, [] => []
  | a, v :: vs => cons a v (ofList (a + 1) vs)

/-- The canonical form: strictly rising addresses, and no entry equal to what an unlisted address reads as. -/
abbrev wf (m : Memory) : Prop := m.Pairwise (fun c d => c.1 < d.1) ∧ ∀ c ∈ m, c.2 ≠ blank

/-- Every listed address is below the memory's size. -/
abbrev below (size : Nat) (m : Memory) : Prop := ∀ c ∈ m, c.1 < size

end Memory
end Sys2Proof.Machine
end

