-- ==== Sys2Proof/Machine/Cartridge.lean ====
section
/-! DEFINITION. The cartridge: image slicing and the load check (20_memory.md R85 to R88), and the fixed mapper (R80 to R82). -/

namespace Sys2Proof.Machine

/-- What a session keeps of its cartridge image, immutable after load (R86, R88). -/
structure Cartridge where
  /-- Header byte 4 (R85). -/
  prgBanks : Byte
  /-- Header byte 5 (R85). -/
  chrBanks : Byte
  /-- Program-ROM, `16384 × prgBanks` bytes (R86). -/
  prg : Memory
  /-- Graphics-ROM, `8192 × chrBanks` bytes (R86). -/
  chrRom : Memory
  deriving DecidableEq, Repr

namespace Cartridge

/-- The least length of an image with these bank counts (R86). -/
def imageSize (prgBanks chrBanks : Byte) : Nat := 16 + 16384 * prgBanks.toNat + 8192 * chrBanks.toNat

/-- The load-time check, fault class "malformed-cartridge" (R87). -/
def malformed (img : List Byte) : Bool :=
  img.length < 16 || img.getD 4 0 == 0 || img.length < imageSize (img.getD 4 0) (img.getD 5 0)

/-- Slice an image (R86). -/
def slice (img : List Byte) : Cartridge :=
  let prgBanks := img.getD 4 0
  let chrBanks := img.getD 5 0
  { prgBanks, chrBanks
    prg := .ofList 0 ((img.drop 16).take (16384 * prgBanks.toNat))
    chrRom := .ofList 0 ((img.drop (16 + 16384 * prgBanks.toNat)).take (8192 * chrBanks.toNat)) }

/-- The cartridge of the least image the load check accepts, every byte of it $00 but the bank count (notes/assumptions/1.md). -/
def blank : Cartridge := { prgBanks := 1, chrBanks := 0, prg := [], chrRom := [] }

/-- Where in program-ROM a CPU address in $8000–$FFFF lies: one 16 KB bank twice, or linear (R80). -/
def prgOffset (c : Cartridge) (a : Word) : Nat :=
  if c.prgBanks = 1 then (a.toNat - 0x8000) % 0x4000 else a.toNat - 0x8000

/-- `MapperRead(a)` (R80). -/
def mapperRead (c : Cartridge) (a : Word) : Byte := c.prg.read (c.prgOffset a)

end Cartridge
end Sys2Proof.Machine
end

