-- ==== Sys2Proof/Machine/State.lean ====
section
/-! DEFINITION. The architectural state (10_state.md), what can stop the machine, and the state after reset
(10_state.md R39, R40; 70_reset_and_hazards.md R400). -/

namespace Sys2Proof.Machine

/-- The direction of a bus access, as a fault record says it (60_exceptions.md R362). -/
inductive Access where
  | read
  | write
  deriving DecidableEq, Repr

/-- The fault classes a running session can record: (a) and (b) of R360, R361, with the fields only class (b) has. -/
inductive FaultClass where
  | illegalOpcode
  | unmappedAddress (addr : Word) (access : Access)
  deriving DecidableEq, Repr

/-- The fault record FAULT (R362): `opcode` is absent when the opcode fetch itself faulted. -/
structure FaultRecord where
  cls : FaultClass
  opcode : Option Byte
  pc : Word
  a : Byte
  x : Byte
  y : Byte
  s : Byte
  p : Byte
  deriving DecidableEq, Repr

/-- The eight buttons, in the serial order of BTN[0] to BTN[7] (20_memory.md R76). -/
inductive Button where
  | a | b | select | start | up | down | left | right
  deriving DecidableEq, Repr

/-- The button states BTN (10_state.md R35): true is pressed. -/
structure Buttons where
  a : Bool := false
  b : Bool := false
  select : Bool := false
  start : Bool := false
  up : Bool := false
  down : Bool := false
  left : Bool := false
  right : Bool := false
  deriving DecidableEq, Repr

/-- Where in frame() a running machine stands (60_exceptions.md R380). -/
inductive FramePos where
  /-- In the pre-VBlank budget, with this many execute() calls left; with none left, render() comes next. -/
  | pre (left : Nat)
  /-- render() is done; setVBlank(true) and the optional NMI come next. -/
  | vblank
  /-- In the post-VBlank budget, with this many execute() calls left; with none left, setVBlank(false) and notify() come next. -/
  | post (left : Nat)
  deriving DecidableEq, Repr

/-- The frame phase (R380). -/
inductive Phase where
  | loaded
  | running (pos : FramePos)
  | idle
  | stopped
  | ended
  deriving DecidableEq, Repr

/-- What the host can do between frames (R380, R384, R385). -/
inductive HostCall where
  | frame
  | setButton (b : Button) (down : Bool)
  | stop
  deriving DecidableEq, Repr

/-- The whole state of the CORE (10_state.md); the last two fields are the model's own (notes/assumptions/2.md and 3.md). -/
structure State where
  /-- Accumulator A (R20). -/
  a : Byte
  /-- Index register X (R20). -/
  x : Byte
  /-- Index register Y (R20). -/
  y : Byte
  /-- Stack pointer S, relative to page $01 (R20, R23). -/
  sp : Byte
  /-- Program counter PC (R24). -/
  pc : Word
  /-- Processor status P: N V R B D I Z C from bit 7 to bit 0 (R25). -/
  p : Byte
  /-- Internal RAM[0..$7FF] (R30). -/
  ram : Memory
  /-- The cartridge: program-ROM, graphics-ROM and the bank counts (R31). -/
  cart : Cartridge
  /-- CHR pattern RAM, 8192 bytes, used when chrBanks = 0 (R31). -/
  chrRam : Memory
  /-- PPU VRAM[0..$1EFF] (R32). -/
  vram : Memory
  /-- Palette RAM PAL[0..31] (R32). -/
  pal : Memory
  /-- OAM[0..255] (R32). -/
  oam : Memory
  /-- Frame buffer FB[0..245759] (R33). -/
  fb : Memory
  /-- PPU CTRL (R34). -/
  ctrl : Byte
  /-- PPU MASK (R34). -/
  mask : Byte
  /-- PPU STATUS (R34). -/
  status : Byte
  /-- PPU OAMADDR (R34). -/
  oamaddr : Byte
  /-- PPU SCROLLX (R34). -/
  scrollX : Byte
  /-- PPU SCROLLY (R34). -/
  scrollY : Byte
  /-- PPU VADDR, 14 bits (R34). -/
  vaddr : BitVec 14
  /-- The write toggle W shared by ports 5 and 6 (R34). -/
  w : Bool
  /-- The data-port read buffer RDBUF (R34). -/
  rdbuf : Byte
  /-- BTN[0..7] (R35). -/
  buttons : Buttons
  /-- The joystick read index JIDX, 0 to 8 (R35). -/
  jidx : Fin 9
  /-- The fault record FAULT (R36). -/
  fault : Option FaultRecord
  /-- The frame phase (R36). -/
  phase : Phase
  /-- The host's pending calls, oldest first. -/
  calls : List HostCall
  /-- How often notify() has been invoked (60_exceptions.md R382). -/
  notifications : Nat
  deriving DecidableEq, Repr

/-- What stops a run for good without being a state of the machine. The faults of R360 and R361 are not here: their effect on
the state is given by R362 and R383, so they are next states (notes/assumptions/6.md). -/
inductive Fault where
  /-- Raised by `State.load` for an image that fails the load check (R87, R365): no session state exists. Safe. -/
  | malformedCartridge
  /-- Raised by `step` in phase Ended: the session is over and "no rule runs after it" (R385). Safe. -/
  | sessionEnded
  deriving DecidableEq, Repr

/-- Why an instruction has no meaning. -/
inductive Refusal where
  /-- Raised by `exec` for an instruction the model has not reached. Safe. -/
  | notModelled (mnemonic : String)
  /-- Raised by `exec` for a term that is no instruction of the machine, a mnemonic with a mode its rule does not list (R118):
  the decoder never yields one. Safe. -/
  | invalidMode
  deriving DecidableEq, Repr

/-- `reset()` for a loaded cartridge (R400): every value of R40, then PC from the reset vector through the mapper (R39). -/
def State.powerOn (cart : Cartridge) : State where
  a := 0x00
  x := 0x00
  y := 0x00
  sp := 0xFD
  pc := word (cart.mapperRead 0xFFFD) (cart.mapperRead 0xFFFC)
  p := 0x24
  ram := []
  cart := cart
  chrRam := []
  vram := []
  pal := []
  oam := []
  fb := []
  ctrl := 0x00
  mask := 0x00
  status := 0x00
  oamaddr := 0x00
  scrollX := 0x00
  scrollY := 0x00
  vaddr := 0x0000
  w := false
  rdbuf := 0x00
  buttons := {}
  jidx := 0
  fault := none
  phase := .loaded
  calls := []
  notifications := 0

/-- Load a cartridge image: the check, then reset (R87, R365, R400). -/
def State.load (img : List Byte) : Except Fault State :=
  if Cartridge.malformed img then .error .malformedCartridge else .ok (State.powerOn (Cartridge.slice img))

/-- The machine right after reset, with the blank cartridge (notes/assumptions/1.md). -/
def State.reset : State := State.powerOn Cartridge.blank

end Sys2Proof.Machine
end

