-- ==== Sys2Proof/Machine/Registers.lean ====
section
/-! DEFINITION. Writing one CPU register. Every write of a whole byte to P forces its bit 5 to 1 (10_state.md R26). -/

namespace Sys2Proof.Machine.State

/-- `A <- v`. -/
def setA (v : Byte) (s : State) : State := { s with a := v }
/-- `X <- v`. -/
def setX (v : Byte) (s : State) : State := { s with x := v }
/-- `Y <- v`. -/
def setY (v : Byte) (s : State) : State := { s with y := v }
/-- `S <- v`. -/
def setS (v : Byte) (s : State) : State := { s with sp := v }
/-- `PC <- w`. -/
def setPc (w : Word) (s : State) : State := { s with pc := w }
/-- `P <- v | $20` (R26). -/
def setP (v : Byte) (s : State) : State := { s with p := v ||| 0x20 }

end Sys2Proof.Machine.State
end

