-- ==== Sys2Proof/Machine/Flags.lean ====
section
/-! DEFINITION. The flags of P (10_state.md R25) and every flag computation: setNZ (00_scope.md R12), addition with carry and
comparison (42_arith_logic.md R170, R171), the shifter (43_shift_rotate.md R200). -/

namespace Sys2Proof.Machine

/-- The eight flags of P (R25). -/
inductive Flag where
  | n | v | r | b | d | i | z | c
  deriving DecidableEq, Repr

/-- The bit position of a flag (R25). -/
def Flag.bit : Flag → Nat
  | .n => 7 | .v => 6 | .r => 5 | .b => 4 | .d => 3 | .i => 2 | .z => 1 | .c => 0

/-- A flag of a status byte. -/
def getFlag (f : Flag) (p : Byte) : Bool := bit p f.bit

/-- A status byte with one flag replaced and every other bit kept. -/
def putFlag (f : Flag) (b : Bool) (p : Byte) : Byte :=
  if b then p ||| BitVec.twoPow 8 f.bit else p &&& ~~~ BitVec.twoPow 8 f.bit

namespace State

/-- Read a flag of P. -/
def flag (f : Flag) (s : State) : Bool := getFlag f s.p

/-- Write one flag of P. -/
def setFlag (f : Flag) (b : Bool) (s : State) : State := { s with p := putFlag f b s.p }

/-- `setNZ(v)`: N is bit 7 of v, Z says whether v is zero (R12). -/
def setNZ (v : Byte) (s : State) : State := (s.setFlag .n (bit v 7)).setFlag .z (v == 0)

end State

/-- The result of an 8-bit addition. -/
structure Sum where
  result : Byte
  carry : Bool
  overflow : Bool
  deriving DecidableEq, Repr

/-- `AddCore(a, m, c)`: the exact sum, narrowed; never adjusted for decimal mode (R170). -/
def addCore (a m : Byte) (c : Bool) : Sum :=
  let exact := a.toNat + m.toNat + c.toNat
  let r := BitVec.ofNat 8 exact
  { result := r, carry := decide (exact > 255), overflow := (a ^^^ r) &&& (m ^^^ r) &&& 0x80 != 0 }

namespace State

/-- `A <- AddCore(A, m, P.C); setNZ(A)` (R172). -/
def addToA (m : Byte) (s : State) : State :=
  let sum := addCore s.a m (s.flag .c)
  (((s.setFlag .c sum.carry).setFlag .v sum.overflow).setA sum.result).setNZ sum.result

/-- `A <- AddCore(A, ~m, P.C); setNZ(A)` (R173). -/
def subtractFromA (m : Byte) (s : State) : State := s.addToA (~~~ m)

/-- `Compare(r, m)` (R171). -/
def compare (r m : Byte) (s : State) : State :=
  ((s.setFlag .c (decide (m ≤ r))).setFlag .z (r == m)).setFlag .n (bit (r - m) 7)

end State

/-- `shl(v)`: the result and the bit shifted out (R200). -/
def shl (v : Byte) : Byte × Bool := (v <<< 1, bit v 7)

/-- `shr(v)` (R200). -/
def shr (v : Byte) : Byte × Bool := (v >>> 1, bit v 0)

/-- `rol(v, c)` (R200). -/
def rol (v : Byte) (c : Bool) : Byte × Bool := ((v <<< 1) ||| (if c then 0x01 else 0x00), bit v 7)

/-- `ror(v, c)` (R200). -/
def ror (v : Byte) (c : Bool) : Byte × Bool := ((v >>> 1) ||| (if c then 0x80 else 0x00), bit v 0)

end Sys2Proof.Machine
end

