-- ==== Sys2Proof/Machine/Ppu.lean ====
section
/-! DEFINITION. The PPU's address space and its eight CPU-visible ports (50_ppu.md R310 to R327, R340). No port access faults, so
each is a plain function of the state. -/

namespace Sys2Proof.Machine

/-- `palidx(a)`: palette entries repeat every 32 bytes, and four of them are mirrors (R312). -/
def palIndex (a : Nat) : Nat :=
  let i := a % 32
  if i = 0x10 ∨ i = 0x14 ∨ i = 0x18 ∨ i = 0x1C then i - 0x10 else i

namespace State

/-- A byte of CHR: pattern RAM when chrBanks = 0, else graphics-ROM (R314). -/
def chrRead (s : State) (a : Nat) : Byte := if s.cart.chrBanks = 0 then s.chrRam.read a else s.cart.chrRom.read a

/-- `PPURead(a)` (R310). -/
def ppuRead (s : State) (a : Nat) : Byte :=
  let a := a % 0x4000
  if a ≤ 0x1FFF then s.chrRead a
  else if a ≤ 0x3EFF then s.vram.read (a - 0x2000)
  else s.pal.read (palIndex a)

/-- `PPUWrite(a, v)`: graphics-ROM keeps its bytes (R310). -/
def ppuWrite (a : Nat) (v : Byte) (s : State) : State :=
  let a := a % 0x4000
  if a ≤ 0x1FFF then (if s.cart.chrBanks = 0 then { s with chrRam := s.chrRam.write a v } else s)
  else if a ≤ 0x3EFF then { s with vram := s.vram.write (a - 0x2000) v }
  else { s with pal := s.pal.write (palIndex a) v }

/-- `inc`: 32 or 1 by CTRL bit 2; VADDR wraps modulo $4000 (R315, R326). -/
def advanceVaddr (s : State) : State := { s with vaddr := s.vaddr + (if bit s.ctrl 2 then 32 else 1) }

/-- `StatusRead()` (R322). -/
def statusRead (s : State) : Byte × State := (s.status, { s with status := s.status &&& 0x7F, w := false })

/-- `DataRead()`: buffered below the palette, direct in it (R326). -/
def dataRead (s : State) : Byte × State :=
  let a := s.vaddr.toNat
  if a < 0x3F00 then (s.rdbuf, { s with rdbuf := s.ppuRead a }.advanceVaddr)
  else (s.ppuRead a, { s with rdbuf := s.ppuRead (a - 0x1000) }.advanceVaddr)

/-- `DataWrite(v)` (R326). -/
def dataWrite (v : Byte) (s : State) : State := (s.ppuWrite s.vaddr.toNat v).advanceVaddr

/-- `OamDataWrite(v)` (R324). -/
def oamDataWrite (v : Byte) (s : State) : State :=
  { s with oam := s.oam.write s.oamaddr.toNat v, oamaddr := s.oamaddr + 1 }

/-- `ScrollWrite(v)` (R327). -/
def scrollWrite (v : Byte) (s : State) : State :=
  if s.w then { s with scrollY := v, w := false } else { s with scrollX := v, w := true }

/-- `AddrWrite(v)`: the high six bits first, then the low byte (R325). -/
def addrWrite (v : Byte) (s : State) : State :=
  if s.w then { s with vaddr := (s.vaddr >>> 8).setWidth 6 ++ v, w := false }
  else { s with vaddr := v.setWidth 6 ++ s.vaddr.setWidth 8, w := true }

/-- `PPUPortRead(n)` (R320). -/
def portRead (n : Nat) (s : State) : Byte × State :=
  match n with
  | 2 => s.statusRead
  | 4 => (s.oam.read s.oamaddr.toNat, s)
  | 7 => s.dataRead
  | _ => (0x00, s)

/-- `PPUPortWrite(n, v)` (R320, R321, R323, R324). -/
def portWrite (n : Nat) (v : Byte) (s : State) : State :=
  match n with
  | 0 => { s with ctrl := v }
  | 1 => { s with mask := v }
  | 3 => { s with oamaddr := v }
  | 4 => s.oamDataWrite v
  | 5 => s.scrollWrite v
  | 6 => s.addrWrite v
  | 7 => s.dataWrite v
  | _ => s

/-- `setVBlank(b)`: the new state, and whether the orchestrator performs NMI entry (R340). -/
def setVBlank (b : Bool) (s : State) : Bool × State :=
  let rising := b && !(bit s.status 7)
  (rising && bit s.ctrl 7,
   { s with status := if b then s.status ||| 0x80 else s.status &&& 0x7F })

end State
end Sys2Proof.Machine
end

