-- ==== Sys2Proof/Machine/Ops.lean ====
section
/-! DEFINITION. The operations every meaning is built from: the CPU bus and its devices (20_memory.md R70 to R81), the stack
(10_state.md R23), trap entry and return (44_control.md R213, R216; 60_exceptions.md R364, R368), the fault record
(60_exceptions.md R362, R383), and the placing of an instruction's bytes. -/

namespace Sys2Proof.Machine

/-- What ends an instruction before its last line (00_scope.md R14). -/
inductive Stop where
  /-- A bus access outside every range (R361). -/
  | unmapped (addr : Word) (access : Access)
  /-- An opcode of the faulting class (R360). -/
  | illegalOpcode
  /-- A mode that the instruction does not have (R118); the decoder never yields it. -/
  | invalidMode
  deriving DecidableEq, Repr

/-- A piece of an instruction: it acts on the state in the order its lines are written and may be ended by a `Stop`, keeping the
effects it has had (R14, R361). -/
abbrev Bus := EStateM Stop State

/-- End the instruction. -/
def stop {α : Type} (c : Stop) : Bus α := fun s => .error c s

/-- Look at the state. -/
def look {α : Type} (f : State → α) : Bus α := fun s => .ok (f s) s

/-- Change the state. -/
def update (f : State → State) : Bus Unit := fun s => .ok () (f s)

/-- A device access: a value and the state after it. -/
def access {α : Type} (f : State → α × State) : Bus α := fun s => .ok (f s).1 (f s).2

/-! The bus. -/

/-- The address is in one of the ranges of R70; the others are $4018–$7FFF (R77). -/
def mapped (a : Word) : Bool := a ≤ 0x4017 || 0x8000 ≤ a

namespace Buttons

/-- BTN[k] (R76). -/
def get (b : Buttons) (k : Nat) : Bool :=
  match k with
  | 0 => b.a | 1 => b.b | 2 => b.select | 3 => b.start | 4 => b.up | 5 => b.down | 6 => b.left | _ => b.right

end Buttons

/-- `JoyRead()` (R76). -/
def joyRead (s : State) : Byte × State :=
  if h : s.jidx.val < 8 then
    (if s.buttons.get s.jidx.val then 0x01 else 0x00, { s with jidx := ⟨s.jidx.val + 1, by omega⟩ })
  else (0x01, s)

/-- `MemRead(a, 1)` (R70). -/
def busRead (a : Word) : Bus Byte :=
  if a ≤ 0x1FFF then look fun s => s.ram.read (a.toNat % 0x800)
  else if a ≤ 0x3FFF then access (State.portRead (a.toNat % 8))
  else if a = 0x4014 then look fun _ => 0x00
  else if a = 0x4016 then access joyRead
  else if a ≤ 0x4017 then look fun _ => 0x00
  else if 0x8000 ≤ a then look fun s => s.cart.mapperRead a
  else stop (.unmapped a .read)

/-- The last `n` of the 256 copies of `OamDma(v)`, in ascending order (R73, R95). -/
def oamDmaFrom (v : Byte) : (n : Nat) → Bus Unit
  | 0 => pure ()
  | n + 1 => do
    let i := 255 - n
    let b ← busRead (word v (BitVec.ofNat 8 i))
    update fun s => { s with oam := s.oam.write ((s.oamaddr.toNat + i) % 256) b }
    oamDmaFrom v n

/-- `OamDma(v)` (R73). -/
def oamDma (v : Byte) : Bus Unit := oamDmaFrom v 256

/-- `JoyWrite(v)` (R76). -/
def joyWrite (s : State) : State := { s with jidx := 0 }

/-- A byte of internal RAM, reached through any of its mirrors (R71). -/
def State.ramWrite (a : Word) (v : Byte) (s : State) : State := { s with ram := s.ram.write (a.toNat % 0x800) v }

/-- `MemWrite(a, 1, v)` (R70). -/
def busWrite (a : Word) (v : Byte) : Bus Unit :=
  if a ≤ 0x1FFF then update (State.ramWrite a v)
  else if a ≤ 0x3FFF then update (State.portWrite (a.toNat % 8) v)
  else if a = 0x4014 then oamDma v
  else if a = 0x4016 then update joyWrite
  else if a ≤ 0x4017 then update id
  else if 0x8000 ≤ a then update id
  else stop (.unmapped a .write)

/-! Fetching, the stack, vectors. -/

/-- `fetch8()` (R13). -/
def fetch8 : Bus Byte := do
  let a ← look (·.pc)
  let b ← busRead a
  update (State.setPc (a + 1))
  pure b

/-- Where a push stores (10_state.md R23). -/
def stackAddr (sp : Byte) : Word := 0x0100 + zext16 sp

/-- `push(v)` (R23). -/
def push (v : Byte) : Bus Unit := do
  let sp ← look (·.sp)
  busWrite (stackAddr sp) v
  update (State.setS (sp - 1))

/-- `pull()` (R23). -/
def pull : Bus Byte := do
  let sp ← look (·.sp)
  update (State.setS (sp + 1))
  busRead (stackAddr (sp + 1))

/-- A word read little-endian from a fixed vector (R62, R78). -/
def readVector (a : Word) : Bus Word := do
  let l ← busRead a
  let h ← busRead (a + 1)
  pure (word h l)

/-- Trap entry, shared by BRK and NMI (R216, R364, R368): push PC high, PC low and the status byte, set I, jump through the
vector. -/
def enterTrap (vector : Word) (status : Byte → Byte) : Bus Unit := do
  let pc ← look (·.pc)
  push (hi pc)
  push (lo pc)
  let p ← look (·.p)
  push (status p)
  update (State.setFlag .i true)
  let target ← readVector vector
  update (State.setPc target)

/-- Trap return (R213): pull P with R forced to 1 and B cleared, then PC. -/
def returnFromTrap : Bus Unit := do
  let p ← pull
  update (State.setP ((p ||| 0x20) &&& 0xEF))
  let l ← pull
  let h ← pull
  update (State.setPc (word h l))

/-- `NmiEntry()` (R364). It cannot be ended by a `Stop` (stack and vectors are mapped), so its state is the result either way. -/
def nmiEntry (s : State) : State :=
  match enterTrap 0xFFFA (fun p => (p &&& 0xEF) ||| 0x20) s with
  | .ok _ t => t
  | .error _ t => t

/-! Faults. -/

/-- Record a fault and stop the frame loop, keeping the state as it stood (R362, R383). -/
def State.recordFault (cls : FaultClass) (opcode : Option Byte) (pc : Word) (s : State) : State :=
  { s with
    fault := some { cls, opcode, pc, a := s.a, x := s.x, y := s.y, s := s.sp, p := s.p }
    phase := .stopped }

/-- The outcome of an instruction. -/
abbrev Outcome := Host.Outcome State Fault Refusal

/-- What a `Stop` makes of the state it left: the fault of R360 or R361, or the refusal of a term that is no instruction. -/
def stopped (c : Stop) (opcode : Option Byte) (pc : Word) (s : State) : Outcome :=
  match c with
  | .unmapped addr access => .next (s.recordFault (.unmappedAddress addr access) opcode pc)
  | .illegalOpcode => .next (s.recordFault .illegalOpcode opcode pc)
  | .invalidMode => .refused .invalidMode

/-- Run an instruction's lines on the state after its fetch, where PC is the address of the byte after it (R24). -/
def perform (i : Instr) (body : Bus Unit) (s : State) : Outcome :=
  if i.wf then
    match body s with
    | .ok _ t => .next t
    | .error c t => stopped c i.opcode (s.pc - BitVec.ofNat 16 i.fetchedBytes) t
  else .refused .invalidMode

/-! Placing an instruction where the next fetch finds it. -/

/-- A fetch at this address reads a stored byte: internal RAM or program-ROM. -/
def holdsCode (a : Word) : Bool := a ≤ 0x1FFF || 0x8000 ≤ a

/-- Put a byte where a fetch at this address reads it. -/
def placeByte (a : Word) (v : Byte) (s : State) : State :=
  if a ≤ 0x1FFF then s.ramWrite a v
  else { s with cart := { s.cart with prg := s.cart.prg.write (s.cart.prgOffset a) v } }

/-- The machine is inside an instruction budget, so that its next step is an execute(). -/
def Phase.executes : Phase → Bool
  | .running (.pre (_ + 1)) | .running (.post (_ + 1)) => true
  | _ => false

/-- Put three bytes at PC (at $8000, with PC there, where PC does not point at stored bytes), and the machine inside an
instruction budget. -/
def placeInstr (b0 b1 b2 : Byte) (s : State) : State :=
  let at_ := if holdsCode s.pc && holdsCode (s.pc + 1) && holdsCode (s.pc + 2) then s.pc else 0x8000
  let phase := if s.phase.executes then s.phase else .running (.pre 1)
  placeByte at_ b0 (placeByte (at_ + 1) b1 (placeByte (at_ + 2) b2 { s with pc := at_, phase := phase }))

end Sys2Proof.Machine
end

