-- ==== Sys2Proof/Machine/Operands.lean ====
section
/-! DEFINITION. Operand resolution for every addressing mode and the operand primitives (40_addressing.md R130 to R146), and the
three shapes an instruction with an operand has: read, store, read-modify-write. -/

namespace Sys2Proof.Machine

/-- What a mode resolves to (R130). -/
inductive Loc where
  | acc
  | imm (v : Byte)
  | ea (a : Word)
  deriving DecidableEq, Repr

/-- A zero-page pointer, its high byte from the next address modulo 256 (R142, R143). -/
def readPointer (p : Byte) : Bus Word := do
  let l ← busRead (zext16 p)
  let h ← busRead (zext16 (p + 1))
  pure (word h l)

/-- Resolve a mode whose operand bytes have been fetched (R131 to R143). -/
def resolve : Mode → Bus Loc
  | .accumulator => pure .acc
  | .immediate v => pure (.imm v)
  | .zeropage b => pure (.ea (zext16 b))
  | .zeropageX b => do
    let x ← look (·.x)
    pure (.ea (zext16 (b + x)))
  | .zeropageY b => do
    let y ← look (·.y)
    pure (.ea (zext16 (b + y)))
  | .absolute w => pure (.ea w)
  | .absoluteX w => do
    let x ← look (·.x)
    pure (.ea (w + zext16 x))
  | .absoluteY w => do
    let y ← look (·.y)
    pure (.ea (w + zext16 y))
  | .indirectX b => do
    let x ← look (·.x)
    let w ← readPointer (b + x)
    pure (.ea w)
  | .indirectY b => do
    let w ← readPointer b
    let y ← look (·.y)
    pure (.ea (w + zext16 y))
  | .implied | .relative _ | .indirect _ => stop .invalidMode

/-- The jump target of JMP: the operand word, or the word read through the pointer with the page-wrap bug (R115, R141). -/
def resolveTarget : Mode → Bus Word
  | .absolute w => pure w
  | .indirect p => do
    let l ← busRead p
    let h ← busRead (word (hi p) (lo p + 1))
    pure (word h l)
  | _ => stop .invalidMode

/-- `ReadOp()` (R144). -/
def readOp : Loc → Bus Byte
  | .acc => look (·.a)
  | .imm v => pure v
  | .ea a => busRead a

/-- `WriteOp(v)` (R144). -/
def writeOp (v : Byte) : Loc → Bus Unit
  | .acc => update (State.setA v)
  | .imm _ => stop .invalidMode
  | .ea a => busWrite a v

/-- Resolve a mode and read its operand. -/
def readOperand (m : Mode) : Bus Byte := do
  let l ← resolve m
  readOp l

/-- A read instruction: one read, then its effect (R144). -/
def reading (m : Mode) (effect : Byte → State → State) : Bus Unit := do
  let v ← readOperand m
  update (effect v)

/-- A store: one write and no read of the address (R144). -/
def storing (m : Mode) (source : State → Byte) : Bus Unit := do
  let l ← resolve m
  let v ← look source
  writeOp v l

/-- A read-modify-write instruction: one read, one write of the result to the same place, then its effect (R144). -/
def modifying {β : Type} (m : Mode) (compute : Byte → State → Byte × β) (effect : Byte → β → State → State) : Bus Unit := do
  let l ← resolve m
  let v ← readOp l
  let r ← look (compute v)
  writeOp r.1 l
  update (effect r.1 r.2)

end Sys2Proof.Machine
end

