-- ==== Sys2Proof/Machine/Arith.lean ====
section
/-! DEFINITION. Arithmetic, logic, compare, increment and decrement (42_arith_logic.md R170 to R187). -/

namespace Sys2Proof.Machine

/-- ADC: `m <- ReadOp(); A <- AddCore(A, m, P.C); setNZ(A)` (R172). -/
def execAdc (m : Mode) (s : State) : Outcome := perform (.adc m) (reading m State.addToA) s
/-- SBC: `m <- ReadOp(); A <- AddCore(A, ~m, P.C); setNZ(A)` (R173). -/
def execSbc (m : Mode) (s : State) : Outcome := perform (.sbc m) (reading m State.subtractFromA) s

/-- A bitwise operation into A: `A <- f(A, m); setNZ(A)`. -/
def logicA (f : Byte → Byte → Byte) (v : Byte) (s : State) : State := (s.setA (f s.a v)).setNZ (f s.a v)

/-- AND: `A <- A & m; setNZ(A)` (R174). -/
def execAnd (m : Mode) (s : State) : Outcome := perform (.and m) (reading m (logicA (· &&& ·))) s
/-- ORA: `A <- A | m; setNZ(A)` (R175). -/
def execOra (m : Mode) (s : State) : Outcome := perform (.ora m) (reading m (logicA (· ||| ·))) s
/-- EOR: `A <- A ^ m; setNZ(A)` (R176). -/
def execEor (m : Mode) (s : State) : Outcome := perform (.eor m) (reading m (logicA (· ^^^ ·))) s

/-- BIT's flags: Z from `A & m`, N and V from bits 7 and 6 of m (R177). -/
def bitTest (v : Byte) (s : State) : State :=
  ((s.setFlag .z (s.a &&& v == 0)).setFlag .n (bit v 7)).setFlag .v (bit v 6)

/-- BIT (R177). -/
def execBit (m : Mode) (s : State) : Outcome := perform (.bit m) (reading m bitTest) s

/-- CMP: `Compare(A, m)` (R178). -/
def execCmp (m : Mode) (s : State) : Outcome := perform (.cmp m) (reading m fun v s => s.compare s.a v) s
/-- CPX: `Compare(X, m)` (R179). -/
def execCpx (m : Mode) (s : State) : Outcome := perform (.cpx m) (reading m fun v s => s.compare s.x v) s
/-- CPY: `Compare(Y, m)` (R180). -/
def execCpy (m : Mode) (s : State) : Outcome := perform (.cpy m) (reading m fun v s => s.compare s.y v) s

/-- INC: `r <- (v + 1) mod 256; WriteOp(r); setNZ(r)` (R181). -/
def execInc (m : Mode) (s : State) : Outcome :=
  perform (.inc m) (modifying m (fun v _ => (v + 1, ())) fun r _ s => s.setNZ r) s
/-- DEC: `r <- (v - 1) mod 256; WriteOp(r); setNZ(r)` (R182). -/
def execDec (m : Mode) (s : State) : Outcome :=
  perform (.dec m) (modifying m (fun v _ => (v - 1, ())) fun r _ s => s.setNZ r) s

/-- INX: `X <- (X + 1) mod 256; setNZ(X)` (R183). -/
def execInx (s : State) : Outcome := perform .inx (update fun s => (s.setX (s.x + 1)).setNZ (s.x + 1)) s
/-- INY: `Y <- (Y + 1) mod 256; setNZ(Y)` (R184). -/
def execIny (s : State) : Outcome := perform .iny (update fun s => (s.setY (s.y + 1)).setNZ (s.y + 1)) s
/-- DEX: `X <- (X - 1) mod 256; setNZ(X)` (R185). -/
def execDex (s : State) : Outcome := perform .dex (update fun s => (s.setX (s.x - 1)).setNZ (s.x - 1)) s
/-- DEY: `Y <- (Y - 1) mod 256; setNZ(Y)` (R186). -/
def execDey (s : State) : Outcome := perform .dey (update fun s => (s.setY (s.y - 1)).setNZ (s.y - 1)) s

end Sys2Proof.Machine
end

