-- ==== Sys2Proof/Machine/Control.lean ====
section
/-! DEFINITION. Control transfer (44_control.md R210 to R225). -/

namespace Sys2Proof.Machine

/-- JMP: `PC <- target` (R210). -/
def execJmp (m : Mode) (s : State) : Outcome :=
  perform (.jmp m) (do let target ← resolveTarget m; update (State.setPc target)) s

/-- JSR: push the address of the JSR's last byte, high then low, and jump (R211). -/
def callSubroutine (target : Word) : Bus Unit := do
  let pc ← look (·.pc)
  push (hi (pc - 1))
  push (lo (pc - 1))
  update (State.setPc target)

/-- JSR (R211). -/
def execJsr (target : Word) (s : State) : Outcome := perform (.jsr target) (callSubroutine target) s

/-- RTS: pull low, then high, and add 1 (R212). -/
def returnFromSubroutine : Bus Unit := do
  let l ← pull
  let h ← pull
  update (State.setPc (word h l + 1))

/-- RTS (R212). -/
def execRts (s : State) : Outcome := perform .rts returnFromSubroutine s

/-- RTI (R213). -/
def execRti (s : State) : Outcome := perform .rti returnFromTrap s

/-- BRK: skip the padding byte without reading it, then enter the trap at $FFFE with B set in the pushed status (R216). -/
def softwareInterrupt : Bus Unit := do
  let pc ← look (·.pc)
  update (State.setPc (pc + 1))
  enterTrap 0xFFFE (fun p => p ||| 0x30)

/-- BRK (R216). -/
def execBrk (s : State) : Outcome := perform .brk softwareInterrupt s

/-- The branch target (40_addressing.md R137). -/
def branchTarget (pc : Word) (d : Byte) : Word := pc + sext16 d

/-- A branch taken when flag f is b (R217). -/
def branch (f : Flag) (b : Bool) (d : Byte) : Bus Unit :=
  update fun s => if s.flag f = b then s.setPc (branchTarget s.pc d) else s

/-- BPL: N = 0 (R218). -/
def execBpl (d : Byte) (s : State) : Outcome := perform (.bpl d) (branch .n false d) s
/-- BMI: N = 1 (R219). -/
def execBmi (d : Byte) (s : State) : Outcome := perform (.bmi d) (branch .n true d) s
/-- BVC: V = 0 (R220). -/
def execBvc (d : Byte) (s : State) : Outcome := perform (.bvc d) (branch .v false d) s
/-- BVS: V = 1 (R221). -/
def execBvs (d : Byte) (s : State) : Outcome := perform (.bvs d) (branch .v true d) s
/-- BCC: C = 0 (R222). -/
def execBcc (d : Byte) (s : State) : Outcome := perform (.bcc d) (branch .c false d) s
/-- BCS: C = 1 (R223). -/
def execBcs (d : Byte) (s : State) : Outcome := perform (.bcs d) (branch .c true d) s
/-- BNE: Z = 0 (R224). -/
def execBne (d : Byte) (s : State) : Outcome := perform (.bne d) (branch .z false d) s
/-- BEQ: Z = 1 (R225). -/
def execBeq (d : Byte) (s : State) : Outcome := perform (.beq d) (branch .z true d) s

end Sys2Proof.Machine
end

