-- ==== Sys2Proof/Machine/Shift.lean ====
section
/-! DEFINITION. Shifts and rotates (43_shift_rotate.md R200 to R204). -/

namespace Sys2Proof.Machine

/-- What follows the write of a shift: `P.C <- co; setNZ(r)` (R201 to R204). -/
def shiftFlags (r : Byte) (co : Bool) (s : State) : State := (s.setFlag .c co).setNZ r

/-- ASL (R201). -/
def execAsl (m : Mode) (s : State) : Outcome := perform (.asl m) (modifying m (fun v _ => shl v) shiftFlags) s
/-- LSR (R202). -/
def execLsr (m : Mode) (s : State) : Outcome := perform (.lsr m) (modifying m (fun v _ => shr v) shiftFlags) s
/-- ROL, through the carry (R203). -/
def execRol (m : Mode) (s : State) : Outcome := perform (.rol m) (modifying m (fun v s => rol v (s.flag .c)) shiftFlags) s
/-- ROR, through the carry (R204). -/
def execRor (m : Mode) (s : State) : Outcome := perform (.ror m) (modifying m (fun v s => ror v (s.flag .c)) shiftFlags) s

end Sys2Proof.Machine
end

