-- ==== Sys2Proof/Machine/Illegal.lean ====
section
/-! DEFINITION. Documented-illegal opcodes other than the NOP forms (46_illegal.md R260 to R273, R277 to R284). -/

namespace Sys2Proof.Machine

/-- SLO: shift left, write, then OR into A (R261). -/
def execSlo (m : Mode) (s : State) : Outcome :=
  perform (.slo m) (modifying m (fun v _ => shl v) fun r co s => logicA (· ||| ·) r (s.setFlag .c co)) s
/-- RLA: rotate left, write, then AND into A (R262). -/
def execRla (m : Mode) (s : State) : Outcome :=
  perform (.rla m) (modifying m (fun v s => rol v (s.flag .c)) fun r co s => logicA (· &&& ·) r (s.setFlag .c co)) s
/-- SRE: shift right, write, then EOR into A (R263). -/
def execSre (m : Mode) (s : State) : Outcome :=
  perform (.sre m) (modifying m (fun v _ => shr v) fun r co s => logicA (· ^^^ ·) r (s.setFlag .c co)) s
/-- RRA: rotate right, write, then add to A with the bit rotated out as carry (R264). -/
def execRra (m : Mode) (s : State) : Outcome :=
  perform (.rra m) (modifying m (fun v s => ror v (s.flag .c)) fun r co s => (s.setFlag .c co).addToA r) s
/-- SAX: `WriteOp(A & X)` (R265). -/
def execSax (m : Mode) (s : State) : Outcome := perform (.sax m) (storing m fun s => s.a &&& s.x) s
/-- LAX: `v <- ReadOp(); A <- v; X <- v; setNZ(v)` (R266). -/
def execLax (m : Mode) (s : State) : Outcome :=
  perform (.lax m) (reading m fun v s => ((s.setA v).setX v).setNZ v) s
/-- DCP: decrement, write, then compare with A (R267). -/
def execDcp (m : Mode) (s : State) : Outcome :=
  perform (.dcp m) (modifying m (fun v _ => (v - 1, ())) fun r _ s => s.compare s.a r) s
/-- ISC: increment, write, then subtract from A (R268). -/
def execIsc (m : Mode) (s : State) : Outcome :=
  perform (.isc m) (modifying m (fun v _ => (v + 1, ())) fun r _ s => s.subtractFromA r) s

/-- ANC: `A <- A & m; setNZ(A); P.C <- A[7]` (R269). -/
def execAnc (op : Byte) (v : Byte) (s : State) : Outcome :=
  perform (.anc op v)
    (reading (.immediate v) fun v s => (logicA (· &&& ·) v s).setFlag .c (bit (s.a &&& v) 7)) s
/-- ALR: `(r, co) <- shr(A & m); A <- r; P.C <- co; setNZ(A)` (R270). -/
def execAlr (v : Byte) (s : State) : Outcome :=
  perform (.alr v)
    (reading (.immediate v) fun v s =>
      let r := shr (s.a &&& v)
      ((s.setA r.1).setFlag .c r.2).setNZ r.1) s
/-- ARR: rotate `A & m` right through the carry; C is bit 6 of the result and V bit 6 XOR bit 5 (R271). -/
def execArr (v : Byte) (s : State) : Outcome :=
  perform (.arr v)
    (reading (.immediate v) fun v s =>
      let r := (ror (s.a &&& v) (s.flag .c)).1
      (((s.setA r).setNZ r).setFlag .c (bit r 6)).setFlag .v (bit r 6 != bit r 5)) s
/-- SBX: `t <- A & X; P.C <- bool(t >= m); X <- (t - m) mod 256; setNZ(X)` (R272). -/
def execSbx (v : Byte) (s : State) : Outcome :=
  perform (.sbx v)
    (reading (.immediate v) fun v s =>
      let t := s.a &&& s.x
      ((s.setFlag .c (decide (v ≤ t))).setX (t - v)).setNZ (t - v)) s
/-- USBC: as SBC immediate (R273). -/
def execUsbc (v : Byte) (s : State) : Outcome := perform (.usbc v) (reading (.immediate v) State.subtractFromA) s

/-- JAM: `raise IllegalOpcode(op)` (R277). -/
def execJam (op : Byte) (s : State) : Outcome := perform (.jam op) (stop .illegalOpcode) s
/-- ANE: `raise IllegalOpcode(op)` (R278). -/
def execAne (s : State) : Outcome := perform .ane (stop .illegalOpcode) s
/-- LXA: `raise IllegalOpcode(op)` (R279). -/
def execLxa (s : State) : Outcome := perform .lxa (stop .illegalOpcode) s
/-- SHA: `raise IllegalOpcode(op)` (R280). -/
def execSha (op : Byte) (s : State) : Outcome := perform (.sha op) (stop .illegalOpcode) s
/-- SHX: `raise IllegalOpcode(op)` (R281). -/
def execShx (s : State) : Outcome := perform .shx (stop .illegalOpcode) s
/-- SHY: `raise IllegalOpcode(op)` (R282). -/
def execShy (s : State) : Outcome := perform .shy (stop .illegalOpcode) s
/-- TAS: `raise IllegalOpcode(op)` (R283). -/
def execTas (s : State) : Outcome := perform .tas (stop .illegalOpcode) s
/-- LAS: `raise IllegalOpcode(op)` (R284). -/
def execLas (s : State) : Outcome := perform .las (stop .illegalOpcode) s

end Sys2Proof.Machine
end

