-- ==== Sys2Proof/Machine/LoadStore.lean ====
section
/-! DEFINITION. Loads, stores and register transfers (41_load_store_transfer.md R150 to R161). -/

namespace Sys2Proof.Machine

/-- LDA: `v <- ReadOp(); A <- v; setNZ(v)` (R150). -/
def execLda (m : Mode) (s : State) : Outcome := perform (.lda m) (reading m fun v s => (s.setA v).setNZ v) s
/-- LDX: `v <- ReadOp(); X <- v; setNZ(v)` (R151). -/
def execLdx (m : Mode) (s : State) : Outcome := perform (.ldx m) (reading m fun v s => (s.setX v).setNZ v) s
/-- LDY: `v <- ReadOp(); Y <- v; setNZ(v)` (R152). -/
def execLdy (m : Mode) (s : State) : Outcome := perform (.ldy m) (reading m fun v s => (s.setY v).setNZ v) s

/-- STA: `WriteOp(A)` (R153). -/
def execSta (m : Mode) (s : State) : Outcome := perform (.sta m) (storing m (·.a)) s
/-- STX: `WriteOp(X)` (R154). -/
def execStx (m : Mode) (s : State) : Outcome := perform (.stx m) (storing m (·.x)) s
/-- STY: `WriteOp(Y)` (R155). -/
def execSty (m : Mode) (s : State) : Outcome := perform (.sty m) (storing m (·.y)) s

/-- TAX: `X <- A; setNZ(X)` (R156). -/
def execTax (s : State) : Outcome := perform .tax (update fun s => (s.setX s.a).setNZ s.a) s
/-- TAY: `Y <- A; setNZ(Y)` (R157). -/
def execTay (s : State) : Outcome := perform .tay (update fun s => (s.setY s.a).setNZ s.a) s
/-- TXA: `A <- X; setNZ(A)` (R158). -/
def execTxa (s : State) : Outcome := perform .txa (update fun s => (s.setA s.x).setNZ s.x) s
/-- TYA: `A <- Y; setNZ(A)` (R159). -/
def execTya (s : State) : Outcome := perform .tya (update fun s => (s.setA s.y).setNZ s.y) s
/-- TSX: `X <- S; setNZ(X)` (R160). -/
def execTsx (s : State) : Outcome := perform .tsx (update fun s => (s.setX s.sp).setNZ s.sp) s
/-- TXS: `S <- X`, no flag (R161). -/
def execTxs (s : State) : Outcome := perform .txs (update fun s => s.setS s.x) s

end Sys2Proof.Machine
end

