-- ==== Sys2Proof/Machine/StackFlags.lean ====
section
/-! DEFINITION. Stack instructions, flag instructions and NOP in all its forms (45_stack_flags_nop.md R240 to R251;
46_illegal.md R274 to R276). -/

namespace Sys2Proof.Machine

/-- PHA: `push(A)` (R240). -/
def execPha (s : State) : Outcome := perform .pha (do let a ← look (·.a); push a) s
/-- PHP: `push(P | $30)` (R241). -/
def execPhp (s : State) : Outcome := perform .php (do let p ← look (·.p); push (p ||| 0x30)) s
/-- PLA: `A <- pull(); setNZ(A)` (R242). -/
def execPla (s : State) : Outcome := perform .pla (do let v ← pull; update fun s => (s.setA v).setNZ v) s
/-- PLP: `p <- pull(); P <- p | $20` (R243). -/
def execPlp (s : State) : Outcome := perform .plp (do let p ← pull; update (State.setP p)) s

/-- CLC: `P.C <- 0` (R244). -/
def execClc (s : State) : Outcome := perform .clc (update (State.setFlag .c false)) s
/-- SEC: `P.C <- 1` (R245). -/
def execSec (s : State) : Outcome := perform .sec (update (State.setFlag .c true)) s
/-- CLI: `P.I <- 0` (R246). -/
def execCli (s : State) : Outcome := perform .cli (update (State.setFlag .i false)) s
/-- SEI: `P.I <- 1` (R247). -/
def execSei (s : State) : Outcome := perform .sei (update (State.setFlag .i true)) s
/-- CLD: `P.D <- 0` (R248). -/
def execCld (s : State) : Outcome := perform .cld (update (State.setFlag .d false)) s
/-- SED: `P.D <- 1` (R249). -/
def execSed (s : State) : Outcome := perform .sed (update (State.setFlag .d true)) s
/-- CLV: `P.V <- 0` (R250). -/
def execClv (s : State) : Outcome := perform .clv (update (State.setFlag .v false)) s

/-- A no-operation: nothing in implied mode (R251, R274), else the operand is read, with its side effects, and discarded
(R275, R276). -/
def discardOperand : Mode → Bus Unit
  | .implied => pure ()
  | m => reading m fun _ s => s

/-- NOP (R251, R274, R275, R276). -/
def execNop (op : Byte) (m : Mode) (s : State) : Outcome := perform (.nop op m) (discardOperand m) s

end Sys2Proof.Machine
end

