-- ==== Sys2Proof/Machine/Execute.lean ====
section
/-! DEFINITION. execute(): one fetch-decode-execute step (60_exceptions.md R370), with the faults of its fetches (R360 to R362). -/

namespace Sys2Proof.Machine

/-- Fetch an instruction's operand bytes, low byte first, and assemble it (30_encoding.md R110, R113). -/
def fetchOperands (op : Byte) : Bus Instr :=
  match (decodeEntry op).operands with
  | 0 => pure ((decodeEntry op).make 0 0)
  | 1 => do
    let b ← fetch8
    pure ((decodeEntry op).make b 0)
  | _ => do
    let b ← fetch8
    let c ← fetch8
    pure ((decodeEntry op).make b c)

/-- `execute()` (R370): a fault on the opcode fetch has no opcode in its record, one on an operand fetch has (R362). -/
def execute (s : State) : Outcome :=
  match fetch8 s with
  | .error c t => stopped c none s.pc t
  | .ok op t =>
    match fetchOperands op t with
    | .error c u => stopped c (some op) s.pc u
    | .ok i u => exec i u

end Sys2Proof.Machine
end

