-- ==== Sys2Proof/Config.lean ====
section
/-! DEFINITION. The parameters the spec leaves OPEN (00_scope.md R8; 92_eei_decisions.md D29, D30): constants with no body,
so that no proof can see their values and every claim holds whatever they are (notes/assumptions/4.md). -/

namespace Sys2Proof

/-- A colour of SYSTEM_PALETTE: an (R, G, B) byte triple (R8). -/
structure Rgb where
  r : Byte
  g : Byte
  b : Byte
  deriving DecidableEq, Repr, Inhabited

namespace Config

/-- POST_VBLANK_BUDGET: the instructions run after VBlank is set (R8). -/
opaque postVBlankBudget : Nat

/-- How far PRE_VBLANK_BUDGET exceeds `postVBlankBudget + 1`. -/
opaque budgetGap : Nat

/-- PRE_VBLANK_BUDGET: the instructions run before render(). R8 requires POST_VBLANK_BUDGET to be smaller, and
`postVBlankBudget + budgetGap + 1` is every number that meets this. -/
def preVBlankBudget : Nat := postVBlankBudget + budgetGap + 1

/-- SYSTEM_PALETTE: the colour of each 6-bit colour index (R8, R331). -/
opaque systemPalette : BitVec 6 → Rgb

end Config
end Sys2Proof
end

