-- ==== Sys2Proof/Machine/Render.lean ====
section
/-! DEFINITION. render() (50_ppu.md R330 to R336), pixel by pixel: the value the loops of R332 and R334 leave in a pixel is the
background's, replaced in turn by every sprite that draws there, from OAM entry 63 down to 0. -/

namespace Sys2Proof.Machine

/-- The two-bit value of column `col` (0 is leftmost) of two bit-planes (R332). -/
def planeValue (low high : Byte) (col : Nat) : Nat :=
  (bit low (7 - col)).toNat + 2 * (bit high (7 - col)).toNat

/-- One OAM entry: "Y, tile, attributes, X" (10_state.md R32). -/
structure Sprite where
  y : Nat
  tile : Byte
  attr : Byte
  x : Nat
  deriving DecidableEq, Repr

namespace State

/-- `base`: the nametable CTRL bits 1:0 select (R332). -/
def nametableBase (s : State) : Nat := 0x2000 + 0x400 * (s.ctrl.toNat % 4)

/-- BGV[x][y], the background pixel value (R332). -/
def bgValue (s : State) (x y : Nat) : Nat :=
  let pt := if bit s.ctrl 4 then 0x1000 else 0x0000
  let tile := (s.ppuRead (s.nametableBase + 32 * (y / 8) + x / 8)).toNat
  let row := pt + 16 * tile + y % 8
  planeValue (s.ppuRead row) (s.ppuRead (row + 8)) (x % 8)

/-- `p`, the background palette of a pixel: two bits of its attribute byte (R332). -/
def bgPalette (s : State) (x y : Nat) : Nat :=
  let tx := x / 8
  let ty := y / 8
  let attr := (s.ppuRead (s.nametableBase + 0x3C0 + 8 * (ty / 4) + tx / 4)).toNat
  let shift := 4 * ((ty % 4) / 2) + 2 * ((tx % 4) / 2)
  (attr >>> shift) % 4

/-- The colour index of a background pixel (R332, R333). -/
def bgColour (s : State) (x y : Nat) : Byte :=
  let v := s.bgValue x y
  if v = 0 then s.pal.read 0 else s.pal.read (4 * s.bgPalette x y + v)

/-- OAM entry i as a sprite (R334). -/
def sprite (s : State) (i : Nat) : Sprite :=
  { y := (s.oam.read (4 * i)).toNat, tile := s.oam.read (4 * i + 1)
    attr := s.oam.read (4 * i + 2), x := (s.oam.read (4 * i + 3)).toNat }

/-- The height of every sprite, by CTRL bit 5 (R315, R334). -/
def spriteHeight (s : State) : Nat := if bit s.ctrl 5 then 16 else 8

/-- The pattern address of row `rr` of a tile; an 8×16 sprite takes its table from bit 0 of the tile number (R334). -/
def spriteRowAddr (s : State) (tile : Byte) (rr : Nat) : Nat :=
  if s.spriteHeight = 8 then (if bit s.ctrl 3 then 0x1000 else 0x0000) + 16 * tile.toNat + rr
  else (if bit tile 0 then 0x1000 else 0x0000) + 16 * ((tile &&& 0xFE).toNat + (if rr ≥ 8 then 1 else 0)) + rr % 8

/-- The value a sprite has at offset (c, r) from its corner, after the flips of attribute bits 7 and 6 (R334). -/
def spriteValue (s : State) (sp : Sprite) (c r : Nat) : Nat :=
  let rr := if bit sp.attr 7 then s.spriteHeight - 1 - r else r
  let cc := if bit sp.attr 6 then 7 - c else c
  let row := s.spriteRowAddr sp.tile rr
  planeValue (s.ppuRead row) (s.ppuRead (row + 8)) cc

/-- The colour index a sprite puts at pixel (x, y), if it puts one: not outside its box, not where it is transparent, and not
behind an opaque background (R334, R335). -/
def spriteColour (s : State) (sp : Sprite) (x y : Nat) : Option Byte :=
  if sp.y ≤ y ∧ y < sp.y + s.spriteHeight ∧ sp.x ≤ x ∧ x < sp.x + 8 then
    let v := s.spriteValue sp (x - sp.x) (y - sp.y)
    if v = 0 then none
    else if bit sp.attr 5 ∧ s.bgValue x y ≠ 0 then none
    else some (s.pal.read (0x10 + 4 * (sp.attr.toNat % 4) + v))
  else none

/-- The sprites in drawing order: OAM entry 63 first, entry 0 last (R334). -/
def drawnSprites (s : State) : List Sprite := (List.range 64).reverse.map s.sprite

/-- The colour index render() leaves at pixel (x, y) when the sprites `sps` are drawn in turn over the background. -/
def pixelOver (s : State) (sps : List Sprite) (x y : Nat) : Byte :=
  sps.foldl (fun ci sp => (s.spriteColour sp x y).getD ci) (s.bgColour x y)

/-- The colour index render() leaves at pixel (x, y). -/
def pixel (s : State) (x y : Nat) : Byte := s.pixelOver s.drawnSprites x y

/-- Byte k of the frame buffer: R, G, B or A of the pixel it belongs to, row-major (R331). -/
def fbByte (s : State) (sps : List Sprite) (k : Nat) : Byte :=
  let colour := Config.systemPalette ((s.pixelOver sps (k / 4 % 256) (k / 4 / 256)).setWidth 6)
  match k % 4 with
  | 0 => colour.r
  | 1 => colour.g
  | 2 => colour.b
  | _ => 255

/-- `render()`: every byte of the frame buffer anew, and nothing else (R330). -/
def render (s : State) : State :=
  let sps := s.drawnSprites
  { s with fb := Memory.ofFn (s.fbByte sps) 0 245760 }

end State
end Sys2Proof.Machine
end

