-- ==== Sys2Proof/Machine/Frame.lean ====
section
/-! DEFINITION. The orchestrator between instructions: the render, VBlank and end steps of a frame (60_exceptions.md R380 to
R382), and the host's calls between frames (R380, R383 to R385). -/

namespace Sys2Proof.Machine

/-- One of the "8 independent boolean setters" (R384). -/
def Buttons.set (b : Buttons) (which : Button) (down : Bool) : Buttons :=
  match which with
  | .a => { b with a := down }
  | .b => { b with b := down }
  | .select => { b with select := down }
  | .start => { b with start := down }
  | .up => { b with up := down }
  | .down => { b with down := down }
  | .left => { b with left := down }
  | .right => { b with right := down }

/-- The host calls frame(): the pre-VBlank budget begins (R380). -/
def beginFrame (s : State) : State := { s with phase := .running (.pre Config.preVBlankBudget) }

/-- The first budget is used up: `render()` (R380). -/
def renderStep (s : State) : State := { s.render with phase := .running .vblank }

/-- `if setVBlank(true): NmiEntry()`, then the post-VBlank budget begins (R340, R380, R381). -/
def vblankStep (s : State) : State :=
  let r := s.setVBlank true
  let t := if r.1 then nmiEntry r.2 else r.2
  { t with phase := .running (.post Config.postVBlankBudget) }

/-- The second budget is used up: `setVBlank(false)`, `notify()`, and the frame is over (R380, R382). -/
def endFrame (s : State) : State :=
  let t := (s.setVBlank false).2
  { t with phase := .idle, notifications := t.notifications + 1 }

/-- The host's next call in phase Loaded or Idle; with none pending it is frame() (R380, R384, R385; notes/assumptions/2.md). -/
def hostCallBetweenFrames (s : State) : State :=
  match s.calls with
  | [] => beginFrame s
  | .frame :: rest => beginFrame { s with calls := rest }
  | .setButton b down :: rest => { s with buttons := s.buttons.set b down, calls := rest }
  | .stop :: rest => { s with phase := .ended, calls := rest }

/-- The host's next call in phase Stopped: only the end of the session has an effect (R383 to R385). -/
def hostCallStopped (s : State) : State :=
  match s.calls with
  | [] => s
  | .frame :: rest => { s with calls := rest }
  | .setButton _ _ :: rest => { s with calls := rest }
  | .stop :: rest => { s with phase := .ended, calls := rest }

end Sys2Proof.Machine
end

