-- ==== Sys2Proof/Machine/Step.lean ====
section
/-! DEFINITION. One step of the whole CORE: an execute() of a budget, a render, VBlank or end step of a frame, or a call of the
host (60_exceptions.md R380). -/

namespace Sys2Proof.Machine

/-- One step. -/
def step (s : State) : Host.Outcome State Fault Refusal :=
  match s.phase with
  | .loaded => .next (hostCallBetweenFrames s)
  | .idle => .next (hostCallBetweenFrames s)
  | .running (.pre 0) => .next (renderStep s)
  | .running (.pre (n + 1)) => execute { s with phase := .running (.pre n) }
  | .running .vblank => .next (vblankStep s)
  | .running (.post 0) => .next (endFrame s)
  | .running (.post (n + 1)) => execute { s with phase := .running (.post n) }
  | .stopped => .next (hostCallStopped s)
  | .ended => .fault .sessionEnded

/-- The state with a table word's instruction where the next step fetches it: its three bytes at PC, or at $8000 (with PC there)
where PC does not point at RAM or program-ROM, and the machine inside an instruction budget (notes/assumptions/8.md). -/
def State.withFetchWord (s : State) (nbits w : Nat) : State :=
  match tableWordBytes nbits w with
  | [b0, b1, b2] => placeInstr b0 b1 b2 s
  | _ => s

end Sys2Proof.Machine
end

