-- ==== Sys2Proof/Safety.lean ====
section
/-! DEFINITION. The words the claims about the machine are stated in: its invariant, what a fetch finds, the status byte after an
instruction, and the register, flag and memory writers the spec lists (10_state.md R21 to R28). -/

namespace Sys2Proof.Machine

/-! The invariant. -/

/-- A slot of palette RAM that is storage of its own: $10, $14, $18 and $1C are mirrors (50_ppu.md R312). -/
def ownPaletteSlot (k : Nat) : Bool := k < 32 && !(k ≥ 16 && k % 4 == 0)

/-- The phases in which STATUS bit 7 may be 1: the VBlank step turns it on and the end of the frame turns it off
(60_exceptions.md R380; 70_reset_and_hazards.md R415), unless a fault or the host has stopped the machine in between. -/
def Phase.vblankMayBeOn : Phase → Bool
  | .running (.post _) | .stopped | .ended => true
  | .loaded | .idle | .running (.pre _) | .running .vblank => false

/-- What holds at reset and is kept by every step. -/
structure Inv (s : State) : Prop where
  /-- P bit 5 is always 1 (10_state.md R26). -/
  reserved : getFlag .r s.p = true
  /-- STATUS is $00 or $80 (50_ppu.md R317). -/
  status : s.status = 0x00 ∨ s.status = 0x80
  /-- STATUS bit 7 is 1 only after the VBlank step of a frame (R415). -/
  vblank : s.status = 0x00 ∨ s.phase.vblankMayBeOn = true
  /-- The machine is stopped exactly by a fault (60_exceptions.md R383). -/
  faulted : s.phase = .stopped → s.fault.isSome = true
  /-- A recorded fault ends execution for good (R383). -/
  final : s.fault.isSome = true → s.phase = .stopped ∨ s.phase = .ended
  ram : s.ram.wf ∧ s.ram.below 0x800
  prg : s.cart.prg.wf ∧ s.cart.prg.below (16384 * s.cart.prgBanks.toNat)
  chrRom : s.cart.chrRom.wf ∧ s.cart.chrRom.below (8192 * s.cart.chrBanks.toNat)
  chrRam : s.chrRam.wf ∧ s.chrRam.below 0x2000
  vram : s.vram.wf ∧ s.vram.below 0x1F00
  pal : s.pal.wf ∧ ∀ c ∈ s.pal, ownPaletteSlot c.1 = true
  oam : s.oam.wf ∧ s.oam.below 256
  fb : s.fb.wf ∧ s.fb.below 245760

/-! What a fetch finds. -/

/-- The byte a fetch reads at an address of internal RAM or program-ROM (20_memory.md R70, R71, R80). -/
def storedByte (s : State) (a : Word) : Byte :=
  if a.toNat ≤ 0x1FFF then s.ram.read (a.toNat % 0x800) else s.cart.mapperRead a

/-- Fetch bytes at PC one after another (00_scope.md R13). -/
def fetchBytes : Nat → Bus (List Byte)
  | 0 => pure []
  | n + 1 => do
    let b ← fetch8
    let bs ← fetchBytes n
    pure (b :: bs)

/-- Read an address a number of times, one read after another. -/
def readTimes (a : Word) : Nat → Bus (List Byte)
  | 0 => pure []
  | n + 1 => do
    let b ← busRead a
    let bs ← readTimes a n
    pure (b :: bs)

/-- The opcode values of an instruction, mode by mode, as its rule lists them: these modes encode to the opcode and the operand
bytes, every other mode to nothing. -/
def EncodesAs (k : Mode → Instr) (codes : List (AddrMode × Byte)) : Prop :=
  ∀ m, encode (k m) = ((codes.lookup m.addrMode).map (· :: m.bytes)).getD []

/-- The 20 faulting opcode values (30_encoding.md R116). -/
def faultingOpcodes : List Byte :=
  [0x02, 0x12, 0x22, 0x32, 0x42, 0x52, 0x62, 0x72, 0x8B, 0x92, 0x93, 0x9B, 0x9C, 0x9E, 0x9F, 0xAB, 0xB2, 0xBB, 0xD2, 0xF2]

/-! Phases (60_exceptions.md R380). -/

/-- The phase with one execute() of an instruction budget spent; none where no execute() is due. -/
def Phase.spend : Phase → Option Phase
  | .running (.pre (n + 1)) => some (.running (.pre n))
  | .running (.post (n + 1)) => some (.running (.post n))
  | .running (.pre 0) | .running .vblank | .running (.post 0) | .loaded | .idle | .stopped | .ended => none

/-- The phases one step can lead to. -/
def Phase.successors : Phase → List Phase
  | .loaded => [.loaded, .running (.pre Config.preVBlankBudget), .ended]
  | .idle => [.idle, .running (.pre Config.preVBlankBudget), .ended]
  | .running (.pre (n + 1)) => [.running (.pre n), .stopped]
  | .running (.pre 0) => [.running .vblank]
  | .running .vblank => [.running (.post Config.postVBlankBudget)]
  | .running (.post (n + 1)) => [.running (.post n), .stopped]
  | .running (.post 0) => [.idle]
  | .stopped => [.stopped, .ended]
  | .ended => []

/-! Status bytes. -/

/-- A status byte with only N, V, Z and C as given (10_state.md R25). -/
def flagBits (n v z c : Bool) : Byte :=
  (if n then 0x80 else 0x00) ||| (if v then 0x40 else 0x00) ||| (if z then 0x02 else 0x00) ||| (if c then 0x01 else 0x00)

/-- P after an instruction that writes N and Z from a result: every other bit kept. -/
def withNZ (r : Byte) (p : Byte) : Byte := (p &&& 0x7D) ||| flagBits r.msb false (r == 0) false

/-- P after an instruction that writes N and Z from a result, and C. -/
def withNZC (r : Byte) (c : Bool) (p : Byte) : Byte := (p &&& 0x7C) ||| flagBits r.msb false (r == 0) c

/-- P after an instruction that writes N and Z from a result, V and C. -/
def withNVZC (r : Byte) (v c : Bool) (p : Byte) : Byte := (p &&& 0x3C) ||| flagBits r.msb v (r == 0) c

/-- The carry flag as a number. -/
def carryOf (s : State) : Nat := (getFlag .c s.p).toNat

/-! Addition and subtraction in numbers (42_arith_logic.md R170, R173). -/

/-- The state after adding `m` to A with carry, every other register as in `t`. -/
def afterAdd (m : Byte) (t : State) : State :=
  let exact := t.a.toNat + m.toNat + carryOf t
  let r := BitVec.ofNat 8 exact
  { t with a := r, p := withNVZC r (t.a.msb == m.msb && r.msb != t.a.msb) (decide (255 < exact)) t.p }

/-- The state after subtracting `m` from A with borrow: `A - m - (1 - C)` modulo 256, C says there was no borrow, and V that A
and `m` differ in sign and A and the result do. -/
def afterSubtract (m : Byte) (t : State) : State :=
  let r := BitVec.ofNat 8 (t.a.toNat + 256 - m.toNat - (1 - carryOf t))
  { t with a := r
           p := withNVZC r (t.a.msb != m.msb && t.a.msb != r.msb) (decide (m.toNat + 1 ≤ t.a.toNat + carryOf t)) t.p }

/-- P after comparing `r` with `m` (R171). -/
def afterCompare (r m : Byte) (p : Byte) : Byte :=
  (p &&& 0x7C) ||| flagBits (r - m).msb false (r == m) (decide (m.toNat ≤ r.toNat))

/-! render() as the loops of 50_ppu.md R332 and R334, one `put` after another. -/

/-- One `put(x, y, ci)` (R331). -/
structure Dot where
  x : Nat
  y : Nat
  ci : Byte
  deriving DecidableEq, Repr

/-- What a `put` stores: R, G, B and A of its pixel (R331). -/
def putDot (fb : Memory) (d : Dot) : Memory :=
  let at_ := 4 * (256 * d.y + d.x)
  let colour := Config.systemPalette ((d.ci &&& 0x3F).setWidth 6)
  (((fb.write at_ colour.r).write (at_ + 1) colour.g).write (at_ + 2) colour.b).write (at_ + 3) 255

/-- Bit `7 - col` of two bit-planes, as the loops compute it. -/
def planeBits (low high : Byte) (col : Nat) : Nat :=
  ((low.toNat >>> (7 - col)) &&& 1) ||| (((high.toNat >>> (7 - col)) &&& 1) <<< 1)

/-- The body of the background loop (R332): the value kept as BGV, and the pixel put. -/
def backgroundDot (s : State) (y tx px : Nat) : Nat × Dot :=
  let base := 0x2000 + 0x400 * (s.ctrl.toNat % 4)
  let pt := if bit s.ctrl 4 then 0x1000 else 0x0000
  let ty := y / 8
  let row := y % 8
  let tile := (s.ppuRead (base + 32 * ty + tx)).toNat
  let attr := (s.ppuRead (base + 0x3C0 + 8 * (ty / 4) + tx / 4)).toNat
  let shift := 4 * ((ty % 4) / 2) + 2 * ((tx % 4) / 2)
  let p := (attr >>> shift) &&& 3
  let v := planeBits (s.ppuRead (pt + 16 * tile + row)) (s.ppuRead (pt + 16 * tile + row + 8)) px
  (v, { x := 8 * tx + px, y := y, ci := if v = 0 then s.pal.read 0 else s.pal.read (4 * p + v) })

/-- The body of the sprite loop (R334): the pixel put, unless it is skipped. -/
def spriteDot (s : State) (i r c : Nat) : Option Dot :=
  let h := if bit s.ctrl 5 then 16 else 8
  let sy0 := (s.oam.read (4 * i)).toNat
  let t := s.oam.read (4 * i + 1)
  let attr := s.oam.read (4 * i + 2)
  let sx0 := (s.oam.read (4 * i + 3)).toNat
  let sy := sy0 + r
  let sx := sx0 + c
  let rr := if bit attr 7 then h - 1 - r else r
  let cc := if bit attr 6 then 7 - c else c
  let a := if h = 8 then (if bit s.ctrl 3 then 0x1000 else 0x0000) + 16 * t.toNat + rr
    else (if bit t 0 then 0x1000 else 0x0000) + 16 * ((t &&& 0xFE).toNat + (if rr ≥ 8 then 1 else 0)) + rr % 8
  let v := planeBits (s.ppuRead a) (s.ppuRead (a + 8)) cc
  if sy ≥ 240 ∨ sx ≥ 256 then none
  else if v = 0 then none
  else if bit attr 5 = true ∧ s.bgValue sx sy ≠ 0 then none
  else some { x := sx, y := sy, ci := s.pal.read (0x10 + 4 * (attr &&& 3).toNat + v) }

/-- Every `put` of render(), in order: the background's, then the sprites', OAM entry 63 first. -/
def renderDots (s : State) : List Dot :=
  ((List.range 240).flatMap fun y => (List.range 32).flatMap fun tx => (List.range 8).map fun px =>
    (backgroundDot s y tx px).2) ++
  ((List.range 64).reverse.flatMap fun i => (List.range (if bit s.ctrl 5 then 16 else 8)).flatMap fun r =>
    (List.range 8).filterMap fun c => spriteDot s i r c)

/-! What instructions write. -/

/-- The stores: one write to the effective address and no read of it (40_addressing.md R144). -/
def isStore : Instr → Bool
  | .sta _ | .stx _ | .sty _ | .sax _ => true
  | _ => false

/-- The read-modify-write instructions (20_memory.md R92, and RRA by 46_illegal.md R264). -/
def isReadModifyWrite : Instr → Bool
  | .inc _ | .dec _ | .asl _ | .lsr _ | .rol _ | .ror _
  | .slo _ | .rla _ | .sre _ | .rra _ | .dcp _ | .isc _ => true
  | _ => false

/-- The instructions that push (10_state.md R23). -/
def isPush : Instr → Bool
  | .pha | .php | .jsr _ | .brk => true
  | _ => false

/-- JMP and JSR take their operand as a target and read no data byte at it (30_encoding.md R115). -/
def isJump : Instr → Bool
  | .jmp _ | .jsr _ => true
  | _ => false

/-- The byte a store stores (41_load_store_transfer.md R153 to R155, 46_illegal.md R265). -/
def storedValue (i : Instr) (s : State) : Option Byte :=
  match i with
  | .sta _ => some s.a
  | .stx _ => some s.x
  | .sty _ => some s.y
  | .sax _ => some (s.a &&& s.x)
  | _ => none

/-- The effective address of an instruction's operand, if it has one (40_addressing.md R130). -/
def dataAddress (i : Instr) (s : State) : Option Word :=
  match resolve i.mode s with
  | .ok (.ea a) _ => some a
  | _ => none

/-- The instructions 10_state.md R21 lists as writers of A. -/
def writesA : Instr → Bool
  | .lda _ | .txa | .tya | .pla | .adc _ | .sbc _ | .and _ | .ora _ | .eor _
  | .asl .accumulator | .lsr .accumulator | .rol .accumulator | .ror .accumulator
  | .slo _ | .rla _ | .sre _ | .rra _ | .lax _ | .isc _ | .anc _ _ | .alr _ | .arr _ | .usbc _ => true
  | _ => false

/-- The instructions 10_state.md R22 lists as writers of X. -/
def writesX : Instr → Bool
  | .ldx _ | .tax | .tsx | .inx | .dex | .lax _ | .sbx _ => true
  | _ => false

/-- The instructions 10_state.md R22 lists as writers of Y. -/
def writesY : Instr → Bool
  | .ldy _ | .tay | .iny | .dey => true
  | _ => false

/-- The writers of S: TXS and every push and pull (10_state.md R23). -/
def writesS : Instr → Bool
  | .txs | .pha | .php | .pla | .plp | .jsr _ | .rts | .rti | .brk => true
  | _ => false

/-- The instructions 10_state.md R28 lists as writers of N and Z. -/
def writesNZ : Instr → Bool
  | .lda _ | .ldx _ | .ldy _ | .tax | .tay | .txa | .tya | .tsx | .pla | .adc _ | .sbc _ | .and _ | .ora _ | .eor _
  | .cmp _ | .cpx _ | .cpy _ | .bit _ | .inc _ | .dec _ | .inx | .iny | .dex | .dey | .asl _ | .lsr _ | .rol _ | .ror _
  | .plp | .rti | .slo _ | .rla _ | .sre _ | .rra _ | .lax _ | .dcp _ | .isc _ | .anc _ _ | .alr _ | .arr _ | .sbx _
  | .usbc _ => true
  | _ => false

/-- The instructions R28 lists as writers of V. -/
def writesV : Instr → Bool
  | .adc _ | .sbc _ | .bit _ | .clv | .plp | .rti | .rra _ | .isc _ | .arr _ | .usbc _ => true
  | _ => false

/-- The instructions R28 lists as writers of C. -/
def writesC : Instr → Bool
  | .adc _ | .sbc _ | .cmp _ | .cpx _ | .cpy _ | .asl _ | .lsr _ | .rol _ | .ror _ | .clc | .sec | .plp | .rti
  | .slo _ | .rla _ | .sre _ | .rra _ | .dcp _ | .isc _ | .anc _ _ | .alr _ | .arr _ | .sbx _ | .usbc _ => true
  | _ => false

/-- The flag-writer table of R28. -/
def writesFlag (i : Instr) : Flag → Bool
  | .n | .z => writesNZ i
  | .v => writesV i
  | .c => writesC i
  | .d => i == .cld || i == .sed || i == .plp || i == .rti
  | .i => i == .cli || i == .sei || i == .plp || i == .rti || i == .brk
  | .b => i == .plp || i == .rti
  | .r => false

/-- The RAM bytes an instruction's pushes store, from the stack pointer before it (10_state.md R23). -/
def pushedSlots (i : Instr) (sp : Byte) : List Nat :=
  match i with
  | .pha | .php => [0x100 + sp.toNat]
  | .jsr _ => [0x100 + sp.toNat, 0x100 + (sp - 1).toNat]
  | .brk => [0x100 + sp.toNat, 0x100 + (sp - 1).toNat, 0x100 + (sp - 2).toNat]
  | _ => []

/-- The CPU address is the one of PPU port n, in any of its mirrors (20_memory.md R72). -/
def isPort (n : Nat) (a : Word) : Bool := 0x2000 ≤ a.toNat && a.toNat ≤ 0x3FFF && a.toNat % 8 == n

/-- The state an instruction's write to address `a` starts from: for a read-modify-write instruction, the one its read left. -/
def storeState (i : Instr) (s : State) (a : Word) : State :=
  match isReadModifyWrite i, busRead a s with
  | true, .ok _ t => t
  | _, _ => s

/-- Two PPU addresses are the same writable byte of storage: pattern RAM and VRAM byte by byte without any nametable mirror,
palette RAM every 32 bytes with its four mirrors (50_ppu.md R310 to R314). -/
def samePpuCell (s : State) (a b : Nat) : Bool :=
  let a := a % 0x4000
  let b := b % 0x4000
  if a < 0x2000 then s.cart.chrBanks == 0 && a == b
  else if a < 0x3F00 then a == b
  else 0x3F00 ≤ b && (a % 32 == b % 32 || (a % 4 == 0 && b % 4 == 0 && a % 16 == b % 16))

/-! The shapes of an instruction's effect (40_addressing.md R144): whenever its accesses complete it completes with this state, and
when one of them meets an unmapped address the fault is recorded over the state that access left. -/

/-- Run on `s`, the instruction stops at an unmapped access that left state `t`: UnmappedAddress is recorded with the opcode, its
address and the registers, and every effect so far is kept (60_exceptions.md R361, R362). -/
def StopsUnmapped (i : Instr) (s : State) (a : Word) (access : Access) (t : State) : Prop :=
  exec i s = .next { t with
    fault := some { cls := .unmappedAddress a access, opcode := i.opcode, pc := s.pc - BitVec.ofNat 16 i.fetchedBytes
                    a := t.a, x := t.x, y := t.y, s := t.sp, p := t.p }
    phase := .stopped }

/-- A read instruction: it reads its operand once and then changes the state by `effect`. -/
def Reads (k : Mode → Instr) (effect : Byte → State → State) : Prop :=
  ∀ m s t, (k m).wf = true →
    (∀ v, readOperand m s = .ok v t → exec (k m) s = .next (effect v t)) ∧
    ∀ a access, readOperand m s = .error (.unmapped a access) t → StopsUnmapped (k m) s a access t

/-- A store: one write of `source` to its effective address, and nothing else. -/
def Stores (k : Mode → Instr) (source : State → Byte) : Prop :=
  ∀ m s a t, (k m).wf = true → resolve m s = .ok (.ea a) s →
    (busWrite a (source s) s = .ok () t → exec (k m) s = .next t) ∧
    ∀ b access, busWrite a (source s) s = .error (.unmapped b access) t → StopsUnmapped (k m) s b access t

/-- A read-modify-write instruction: one read, one write of `result` to the same address, then `effect` (of the byte read and the
byte written) on the CPU. Where its read completes its write does too, $4014 reading as $00. -/
def Modifies (k : Mode → Instr) (result : Byte → State → Byte) (effect : Byte → Byte → State → State) : Prop :=
  ∀ m s a t, (k m).wf = true → resolve m s = .ok (.ea a) s →
    (∀ v u, busRead a s = .ok v t → busWrite a (result v t) t = .ok () u → exec (k m) s = .next (effect v (result v t) u)) ∧
    ∀ b access, busRead a s = .error (.unmapped b access) t → StopsUnmapped (k m) s b access t

/-- A branch taken when flag f is b (44_control.md R217). -/
def Branches (k : Byte → Instr) (f : Flag) (b : Bool) : Prop :=
  ∀ d s, ∃ t, exec (k d) s = .next t ∧ t = { s with pc := t.pc } ∧
    (getFlag f s.p = b → (t.pc.toNat : Int) = (s.pc.toNat + d.toInt) % 65536) ∧ (getFlag f s.p ≠ b → t.pc = s.pc)

/-- The memories and the PPU's write-only registers are the same in two states. -/
structure SameMemory (s t : State) : Prop where
  ram : t.ram = s.ram
  chrRam : t.chrRam = s.chrRam
  vram : t.vram = s.vram
  pal : t.pal = s.pal
  oam : t.oam = s.oam
  ctrl : t.ctrl = s.ctrl
  mask : t.mask = s.mask
  oamaddr : t.oamaddr = s.oamaddr
  scrollX : t.scrollX = s.scrollX
  scrollY : t.scrollY = s.scrollY

/-- What no instruction changes: the cartridge, the frame buffer, the buttons, the host's calls and the notifications. -/
structure SameOutside (s t : State) : Prop where
  cart : t.cart = s.cart
  fb : t.fb = s.fb
  buttons : t.buttons = s.buttons
  calls : t.calls = s.calls
  notifications : t.notifications = s.notifications

end Sys2Proof.Machine
end

