-- ==== Sys2Proof/Certificates/Slice0/Obligations.lean ====
section
/-! DEFINITION. The statements about the machine, in the order of the spec's files. -/

open Sys2Proof Sys2Proof.Machine

/-! 30_encoding.md. -/

/-- Every instruction of the machine is read back from its own bytes, with every operand, whatever follows them
(30_encoding.md R110 to R114). A faulting instruction's bytes are its opcode byte alone (notes/assumptions/10.md). -/
def Obligations.DecodeOfEncode : Prop :=
  ∀ (i : Instr) (rest : List Byte), i.wf = true → decode (encode i ++ rest) = .ok (i, rest)

/-- Bytes that decode are the encoding of the instruction they decode to: every word has one meaning, and the decoder yields no
mode its mnemonic does not have (R114, R118). A faulting instruction's bytes are its opcode byte alone (notes/assumptions/10.md). -/
def Obligations.EncodeOfDecode : Prop :=
  ∀ (bs : List Byte) (i : Instr) (rest : List Byte), decode bs = .ok (i, rest) → i.wf = true ∧ bs = encode i ++ rest

/-- The opcode byte alone fixes the mode and with it the length, and decoding fails only for want of operand bytes (R110, R119,
R120); the modes of the faulting cells are those of R114. That the decoder reads no operand byte of a faulting opcode, since none is
fetched (60_exceptions.md R360), is the model's reading (notes/assumptions/10.md). -/
def Obligations.OpcodeFixesModeAndLength : Prop :=
  (∀ op : Byte, ∃ (mode : AddrMode) (n : Nat), n = (if op ∈ faultingOpcodes then 0 else mode.operandBytes) ∧
    (∀ operands rest : List Byte, operands.length = n →
      ∃ i, decode (op :: operands ++ rest) = .ok (i, rest) ∧ i.addrMode = mode ∧
        i.length = 1 + mode.operandBytes ∧ i.fetchedBytes = 1 + n ∧ encode i = op :: operands) ∧
    ∀ operands : List Byte, operands.length < n → decode (op :: operands) = .error (.truncated op)) ∧
  (∀ i : Instr, faulting i = false → i.mode.addrMode = i.addrMode) ∧
  (∀ op : Byte, (Instr.jam op).addrMode = .implied) ∧ Instr.ane.addrMode = .immediate ∧ Instr.lxa.addrMode = .immediate ∧
  (Instr.sha 0x93).addrMode = .indirectY ∧ (Instr.sha 0x9F).addrMode = .absoluteY ∧ Instr.shx.addrMode = .absoluteY ∧
  Instr.shy.addrMode = .absoluteX ∧ Instr.tas.addrMode = .absoluteY ∧ Instr.las.addrMode = .absoluteY

/-- Words written out from the decode table of R114, one or more of every family. The faulting words are one byte here
(notes/assumptions/10.md). -/
def Obligations.SampleWordsDecode : Prop :=
  decode [0xA9, 0x80] = .ok (.lda (.immediate 0x80), []) ∧
  decode [0xBD, 0xF0, 0x02] = .ok (.lda (.absoluteX 0x02F0), []) ∧
  decode [0xB6, 0x10] = .ok (.ldx (.zeropageY 0x10), []) ∧
  decode [0x8D, 0x00, 0x50] = .ok (.sta (.absolute 0x5000), []) ∧
  decode [0xAA] = .ok (.tax, []) ∧
  decode [0x61, 0x24] = .ok (.adc (.indirectX 0x24), []) ∧
  decode [0xF1, 0x10] = .ok (.sbc (.indirectY 0x10), []) ∧
  decode [0x2C, 0x02, 0x20] = .ok (.bit (.absolute 0x2002), []) ∧
  decode [0xF6, 0x10] = .ok (.inc (.zeropageX 0x10), []) ∧
  decode [0x2A] = .ok (.rol .accumulator, []) ∧
  decode [0x6C, 0xFF, 0x02] = .ok (.jmp (.indirect 0x02FF), []) ∧
  decode [0x20, 0x10, 0x80] = .ok (.jsr 0x8010, []) ∧
  decode [0xD0, 0xFE] = .ok (.bne 0xFE, []) ∧
  decode [0x00] = .ok (.brk, []) ∧
  decode [0x28] = .ok (.plp, []) ∧
  decode [0xF8] = .ok (.sed, []) ∧
  decode [0x89, 0x01] = .ok (.nop 0x89 (.immediate 0x01), []) ∧
  decode [0xBB] = .ok (.las, []) ∧
  decode [0xC3, 0x20] = .ok (.dcp (.indirectX 0x20), []) ∧
  decode [0x2B, 0x80] = .ok (.anc 0x2B 0x80, []) ∧
  decode [0xF2, 0xEA] = .ok (.jam 0xF2, [0xEA])

/-! 60_exceptions.md R370, 00_scope.md R13: fetch and execute. -/

/-- Where one execute() is due and the bytes fetched at PC are the bytes of an instruction, one step is that instruction's `exec`
at the state after the fetch, with one execute() of the budget spent (R370, R380). -/
def Obligations.StepRunsDecodedInstruction : Prop :=
  ∀ (s t : State) (ph : Phase) (bs : List Byte) (i : Instr), s.phase.spend = some ph → decode bs = .ok (i, []) →
    fetchBytes bs.length { s with phase := ph } = .ok bs t → step s = exec i t

/-- Bytes fetched from internal RAM or program-ROM are the stored bytes, RAM through its mirrors and program-ROM through the
mapper, and the fetch moves PC past them, modulo 65536, and changes nothing else (R13, R71, R80, R93). -/
def Obligations.FetchReadsTheStoredBytes : Prop :=
  ∀ (n : Nat) (s : State), (∀ k < n, holdsCode (s.pc + BitVec.ofNat 16 k) = true) →
    fetchBytes n s = .ok ((List.range n).map fun k => storedByte s (s.pc + BitVec.ofNat 16 k))
      { s with pc := s.pc + BitVec.ofNat 16 n }

/-- A fetch at an unmapped address stops the machine, with no opcode in the record, the opcode's address and the registers as they
stand (R361, R362). Everywhere else the whole instruction is fetched, decoded and executed: an operand fetch never meets the hole,
since $4016 and $4017 read as opcodes too short to reach it (20_memory.md R75, R76; 30_encoding.md R114). -/
def Obligations.UnmappedFetchStopsTheMachine : Prop :=
  ∀ (s : State) (ph : Phase), s.phase.spend = some ph →
    (mapped s.pc = false → step s = .next { s with
      fault := some { cls := .unmappedAddress s.pc .read, opcode := none, pc := s.pc
                      a := s.a, x := s.x, y := s.y, s := s.sp, p := s.p }
      phase := .stopped }) ∧
    (mapped s.pc = true → ∃ bs i t, fetchBytes bs.length { s with phase := ph } = .ok bs t ∧ decode bs = .ok (i, []) ∧
      step s = exec i t)

/-- Each of the 20 faulting opcode values stops the machine right after its fetch, with no operand byte fetched: JAM, ANE, LXA,
SHA, SHX, SHY, TAS and LAS, and no other value does (R360; 46_illegal.md R277 to R284); the record and the phase are those of R362
and R383. That the encoding of such an instruction is its opcode byte alone is the model's reading of "No operand byte is fetched",
R114 giving these cells the chip's modes (notes/assumptions/10.md). -/
def Obligations.FaultingOpcodesStopTheMachine : Prop :=
  (∀ (s t : State) (ph : Phase) (op : Byte), s.phase.spend = some ph → fetch8 { s with phase := ph } = .ok op t →
    op ∈ faultingOpcodes →
    step s = .next { t with
      fault := some { cls := .illegalOpcode, opcode := some op, pc := s.pc
                      a := s.a, x := s.x, y := s.y, s := s.sp, p := s.p }
      phase := .stopped }) ∧
  (∀ (i : Instr) (s : State), i.wf = true → faulting i = true →
    exec i s = .next (s.recordFault .illegalOpcode i.opcode (s.pc - 1))) ∧
  (∀ (op b c : Byte) (i : Instr) (rest : List Byte), decode [op, b, c] = .ok (i, rest) →
    (faulting i = true ↔ op ∈ faultingOpcodes)) ∧
  (∀ op ∈ jamOpcodes, encode (.jam op) = [op]) ∧ encode .ane = [0x8B] ∧ encode .lxa = [0xAB] ∧
  encode (.sha 0x93) = [0x93] ∧ encode (.sha 0x9F) = [0x9F] ∧ encode .shx = [0x9E] ∧ encode .shy = [0x9C] ∧
  encode .tas = [0x9B] ∧ encode .las = [0xBB]

/-! 20_memory.md. -/

/-- Where every CPU read and write goes, by address (R70, R72, R74, R75, R80, R81). -/
def Obligations.BusFollowsTheAddressMap : Prop :=
  ∀ (a : Word) (v : Byte) (s : State),
    (a.toNat ≤ 0x1FFF →
      busRead a s = .ok (s.ram.read (a.toNat % 0x800)) s ∧
      busWrite a v s = .ok () { s with ram := s.ram.write (a.toNat % 0x800) v }) ∧
    (0x2000 ≤ a.toNat ∧ a.toNat ≤ 0x3FFF →
      busRead a s = .ok (s.portRead (a.toNat % 8)).1 (s.portRead (a.toNat % 8)).2 ∧
      busWrite a v s = .ok () (s.portWrite (a.toNat % 8) v)) ∧
    (a = 0x4014 → busRead a s = .ok 0x00 s ∧ busWrite a v s = oamDma v s) ∧
    (a = 0x4016 →
      busRead a s = .ok (joyRead s).1 (joyRead s).2 ∧ busWrite a v s = .ok () { s with jidx := 0 }) ∧
    (0x4000 ≤ a.toNat ∧ a.toNat ≤ 0x4017 ∧ a ≠ 0x4014 ∧ a ≠ 0x4016 →
      busRead a s = .ok 0x00 s ∧ busWrite a v s = .ok () s) ∧
    (0x4018 ≤ a.toNat ∧ a.toNat ≤ 0x7FFF →
      busRead a s = .error (.unmapped a .read) s ∧ busWrite a v s = .error (.unmapped a .write) s) ∧
    (0x8000 ≤ a.toNat →
      busRead a s = .ok (s.cart.prg.read
        (if s.cart.prgBanks = 1 then (a.toNat - 0x8000) % 0x4000 else a.toNat - 0x8000)) s ∧
      busWrite a v s = .ok () s)

/-- "a write at $0000 is observable at $0800, $1000, $1800 and vice versa" (R71), and at no address that is not a mirror of it. -/
def Obligations.RamMirrorsShareStorage : Prop :=
  ∀ (s : State) (a b : Word) (v : Byte), s.ram.wf → a.toNat ≤ 0x1FFF → b.toNat ≤ 0x1FFF →
    ∃ t, busWrite a v s = .ok () t ∧
      busRead b t =
        .ok (if a.toNat % 0x800 = b.toNat % 0x800 then v else s.ram.read (b.toNat % 0x800)) t

/-- A read completes exactly outside $4018–$7FFF; a write completes exactly there too, but for an OAM-DMA whose source page meets
the hole; stack accesses and vector reads always complete (R77). -/
def Obligations.AccessesCompleteExactlyWhereMapped : Prop :=
  (∀ (a : Word) (s : State), (∃ v t, busRead a s = .ok v t) ↔ ¬ (0x4018 ≤ a.toNat ∧ a.toNat ≤ 0x7FFF)) ∧
  (∀ (a : Word) (v : Byte) (s : State), (∃ t, busWrite a v s = .ok () t) ↔
    ¬ (0x4018 ≤ a.toNat ∧ a.toNat ≤ 0x7FFF) ∧ ¬ (a = 0x4014 ∧ 0x40 ≤ v.toNat ∧ v.toNat ≤ 0x7F)) ∧
  (∀ (v : Byte) (s : State), ∃ t, push v s = .ok () t) ∧
  (∀ s : State, ∃ v t, pull s = .ok v t) ∧
  ∀ (s : State) (a : Word), a = 0xFFFA ∨ a = 0xFFFC ∨ a = 0xFFFE → ∃ w, readVector a s = .ok w s

/-- OAM-DMA is R73's loop over the bus; from a page of RAM or program-ROM it copies the page's 256 bytes to OAM from OAMADDR on,
wrapping, and changes nothing else; from pages $41 to $7F it faults at once, from page $40 after 24 bytes, which stay copied; and
OAMADDR is unchanged at the end in every case (R73, R95). -/
def Obligations.OamDmaCopiesThroughTheBus : Prop :=
  (∀ (v : Byte) (s : State), busWrite 0x4014 v s =
    ((List.range 256).forM fun i => do
      let b ← busRead (BitVec.ofNat 16 (v.toNat * 256 + i))
      update fun s => { s with oam := s.oam.write ((s.oamaddr.toNat + i) % 256) b }) s) ∧
  (∀ (v : Byte) (s : State), s.oam.wf → v.toNat < 0x20 ∨ 0x80 ≤ v.toNat →
    ∃ t, busWrite 0x4014 v s = .ok () t ∧ t = { s with oam := t.oam } ∧
      ∀ k < 256, t.oam.read ((s.oamaddr.toNat + k) % 256) = storedByte s (BitVec.ofNat 16 (v.toNat * 256 + k))) ∧
  (∀ (v : Byte) (s : State), 0x41 ≤ v.toNat → v.toNat ≤ 0x7F →
    busWrite 0x4014 v s = .error (.unmapped (BitVec.ofNat 16 (v.toNat * 256)) .read) s) ∧
  (∀ s : State, s.oam.wf →
    ∃ t, busWrite 0x4014 0x40 s = .error (.unmapped 0x4018 .read) t ∧
      t = { s with oam := t.oam, jidx := (joyRead s).2.jidx } ∧
      ∀ k < 256, t.oam.read ((s.oamaddr.toNat + k) % 256) =
        if k = 0x16 then (joyRead s).1 else if k < 0x18 then 0x00 else s.oam.read ((s.oamaddr.toNat + k) % 256)) ∧
  ∀ (v : Byte) (s : State),
    match busWrite 0x4014 v s with
    | .ok _ t => t.oamaddr = s.oamaddr
    | .error _ t => t.oamaddr = s.oamaddr

/-- Which reads have a side effect, and what it is: the status port, the data port and the joystick; every other read leaves the
state as it is. Writes to program-ROM and the audio ports change nothing (R66). -/
def Obligations.SideEffectsAreConfined : Prop :=
  (∀ (a : Word) (s t : State) (v : Byte), busRead a s = .ok v t →
    (isPort 2 a = true → t = { s with status := s.status &&& 0x7F, w := false }) ∧
    (isPort 7 a = true → t = { s with rdbuf := t.rdbuf, vaddr := t.vaddr }) ∧
    (a = 0x4016 → t = { s with jidx := t.jidx }) ∧
    (isPort 2 a = false → isPort 7 a = false → a ≠ 0x4016 → t = s)) ∧
  ∀ (a : Word) (s : State) (v : Byte),
    (0x8000 ≤ a.toNat ∨ (0x4000 ≤ a.toNat ∧ a.toNat ≤ 0x4017 ∧ a ≠ 0x4014 ∧ a ≠ 0x4016)) → busWrite a v s = .ok () s

/-- After a strobe, successive reads of $4016 give the buttons A, B, Select, Start, Up, Down, Left, Right and then $01 for ever,
and move nothing but JIDX (R76). -/
def Obligations.JoystickSerialisesTheButtons : Prop :=
  ∀ (s : State) (v : Byte) (n : Nat),
    busWrite 0x4016 v s = .ok () { s with jidx := 0 } ∧
    ∃ t, readTimes 0x4016 n { s with jidx := 0 } =
        .ok ((List.range n).map fun k =>
          ([s.buttons.a, s.buttons.b, s.buttons.select, s.buttons.start, s.buttons.up, s.buttons.down, s.buttons.left,
            s.buttons.right].map fun pressed => if pressed then (0x01 : Byte) else 0x00).getD k 0x01) t ∧
      t = { s with jidx := t.jidx } ∧ t.jidx.val = min n 8

/-! 50_ppu.md. -/

/-- Ports 0 to 4 at every mirror: CTRL, MASK, STATUS with its read side effect, OAMADDR, OAM data (R321 to R324). -/
def Obligations.ControlStatusAndOamPorts : Prop :=
  ∀ (a : Word) (v : Byte) (s : State),
    (isPort 0 a = true → busRead a s = .ok 0x00 s ∧ busWrite a v s = .ok () { s with ctrl := v }) ∧
    (isPort 1 a = true → busRead a s = .ok 0x00 s ∧ busWrite a v s = .ok () { s with mask := v }) ∧
    (isPort 2 a = true →
      busRead a s = .ok s.status { s with status := s.status &&& 0x7F, w := false } ∧ busWrite a v s = .ok () s) ∧
    (isPort 3 a = true → busRead a s = .ok 0x00 s ∧ busWrite a v s = .ok () { s with oamaddr := v }) ∧
    (isPort 4 a = true →
      busRead a s = .ok (s.oam.read s.oamaddr.toNat) s ∧
      busWrite a v s = .ok () { s with
        oam := s.oam.write s.oamaddr.toNat v, oamaddr := BitVec.ofNat 8 ((s.oamaddr.toNat + 1) % 256) })

/-- Ports 5 and 6, the two-write ports that share the toggle W, high byte of the address first (R325, R327). -/
def Obligations.TwoWritePortsAlternate : Prop :=
  ∀ (a : Word) (v : Byte) (s : State),
    (isPort 5 a = true → busRead a s = .ok 0x00 s ∧
      (s.w = false → busWrite a v s = .ok () { s with scrollX := v, w := true }) ∧
      (s.w = true → busWrite a v s = .ok () { s with scrollY := v, w := false })) ∧
    (isPort 6 a = true → busRead a s = .ok 0x00 s ∧
      ∃ t, busWrite a v s = .ok () t ∧ t = { s with vaddr := t.vaddr, w := !s.w } ∧
        t.vaddr.toNat = if s.w then s.vaddr.toNat / 256 * 256 + v.toNat
          else v.toNat % 64 * 256 + s.vaddr.toNat % 256)

/-- Port 7, the data port: a read is one access late below the palette and direct in it, a write stores at VADDR, and either
advances VADDR by 1 or 32 modulo $4000 (R326). -/
def Obligations.DataPortReadsLateAndAdvances : Prop :=
  ∀ (a : Word) (v : Byte) (s : State), isPort 7 a = true →
    let address := s.vaddr.toNat
    let next := (address + if bit s.ctrl 2 then 32 else 1) % 0x4000
    (∃ t, busRead a s = .ok (if address < 0x3F00 then s.rdbuf else s.ppuRead address) t ∧
      t = { s with rdbuf := s.ppuRead (if address < 0x3F00 then address else address - 0x1000), vaddr := t.vaddr } ∧
      t.vaddr.toNat = next) ∧
    ∃ t, busWrite a v s = .ok () t ∧ t = { s.ppuWrite address v with vaddr := t.vaddr } ∧ t.vaddr.toNat = next

/-- PPU memory holds what is written: a read gives the byte last written to the same storage and is unchanged by a write to any
other. VRAM has no mirrors, the palette repeats every 32 bytes with $10, $14, $18, $1C mirroring $00, $04, $08, $0C, and
graphics-ROM keeps its bytes (R310, R312). -/
def Obligations.PpuMemoryHoldsWhatIsWritten : Prop :=
  (∀ (s : State) (a b : Nat) (v : Byte), s.chrRam.wf → s.vram.wf → s.pal.wf →
    (s.ppuWrite a v).ppuRead b = if samePpuCell s a b then v else s.ppuRead b) ∧
  (∀ (s : State) (a : Nat), a % 0x4000 < 0x2000 → s.cart.chrBanks ≠ 0 →
    s.ppuRead a = s.cart.chrRom.read (a % 0x4000) ∧ ∀ v, s.ppuWrite a v = s) ∧
  ∀ (s : State) (a : Nat),
    (a % 0x4000 < 0x2000 → s.cart.chrBanks = 0 → s.ppuRead a = s.chrRam.read (a % 0x4000)) ∧
    (0x2000 ≤ a % 0x4000 → a % 0x4000 < 0x3F00 → s.ppuRead a = s.vram.read (a % 0x4000 - 0x2000)) ∧
    (0x3F00 ≤ a % 0x4000 → s.ppuRead a =
      s.pal.read (if 16 ≤ a % 32 ∧ a % 4 = 0 then a % 32 - 16 else a % 32))

/-- Every pixel of a rendered frame is four bytes, R, G, B of its colour index and 255, row-major, and render() changes nothing
but the frame buffer, which stays within its 245760 bytes (R330, R331). -/
def Obligations.RenderWritesEveryPixel : Prop :=
  (∀ (s : State) (x y : Nat), x < 256 → y < 240 →
    let at_ := 4 * (256 * y + x)
    let colour := Config.systemPalette ((s.pixel x y &&& 0x3F).setWidth 6)
    s.render.fb.read at_ = colour.r ∧ s.render.fb.read (at_ + 1) = colour.g ∧
    s.render.fb.read (at_ + 2) = colour.b ∧ s.render.fb.read (at_ + 3) = 255) ∧
  ∀ s : State, s.render = { s with fb := s.render.fb } ∧ s.render.fb.wf ∧ s.render.fb.below 245760

/-- render() leaves exactly what the spec's own loops leave: the background pass put by put, then the sprite pass, entry 63 first
(R332, R334). The value the background loop keeps as BGV is the one the sprites' priority test reads. -/
def Obligations.RenderFollowsTheLoops : Prop :=
  (∀ (s : State) (y tx px : Nat), px < 8 → (backgroundDot s y tx px).1 = s.bgValue (8 * tx + px) y) ∧
  ∀ s : State, s.fb.wf → s.fb.below 245760 → s.render = { s with fb := (renderDots s).foldl putDot s.fb }

/-- A pixel shows the sprite of lowest OAM index that draws there, whatever the priority bits of the others are, and the
background where none draws (R334, R335). -/
def Obligations.LowestDrawingSpriteShows : Prop :=
  ∀ (s : State) (x y : Nat),
    s.pixel x y = (((List.range 64).map s.sprite).findSome? fun sp => s.spriteColour sp x y).getD (s.bgColour x y)

/-- The frame depends on nothing but the cartridge's graphics, pattern RAM, VRAM, the palette, OAM and CTRL: not on MASK, not on
the scroll registers, not on any CPU state or earlier frame (R336, R316, R330). -/
def Obligations.RenderIgnoresEverythingElse : Prop :=
  ∀ s t : State, s.cart.chrBanks = t.cart.chrBanks → s.cart.chrRom = t.cart.chrRom → s.chrRam = t.chrRam →
    s.vram = t.vram → s.pal = t.pal → s.oam = t.oam → s.ctrl = t.ctrl → s.render.fb = t.render.fb

/-- The source's rendering example, for every colour: with OAM and CTRL at their reset values, tile 1 solid in its first row, the
first nametable entry 1 and tile 0 empty, the first pixel is palette 0's colour 1 (R337). -/
def Obligations.SolidTileColoursFirstPixel : Prop :=
  ∀ s : State, s.ctrl = 0x00 → (∀ k < 256, s.oam.read k = 0x00) → s.vram.read 0x000 = 0x01 → s.vram.read 0x3C0 = 0x00 →
    s.chrRead 0x10 = 0xFF → s.chrRead 0x18 = 0x00 → (∀ k < 16, s.chrRead k = 0x00) →
    let colour := Config.systemPalette ((s.pal.read 1 &&& 0x3F).setWidth 6)
    s.render.fb.read 0 = colour.r ∧ s.render.fb.read 1 = colour.g ∧ s.render.fb.read 2 = colour.b ∧
      s.render.fb.read 3 = 255

/-! 60_exceptions.md: interrupts, faults, the frame loop. -/

/-- The VBlank step: setVBlank answers whether VBlank rises with NMI enabled, and then NmiEntry pushes PC high, PC low and P with
B clear and R set, sets I and jumps through $FFFA/$FFFB, whatever I was; every other byte and register is as before (R340, R364,
R381). -/
def Obligations.VBlankRaisesNmi : Prop :=
  (∀ (b : Bool) (s : State), (s.setVBlank b).1 = (b && !(bit s.status 7) && bit s.ctrl 7) ∧
    (s.setVBlank b).2 = { s with status := if b then s.status ||| 0x80 else s.status &&& 0x7F }) ∧
  ∀ s : State, s.phase = .running .vblank → s.status = 0x00 → s.ram.wf →
    (bit s.ctrl 7 = false →
      step s = .next { s with status := 0x80, phase := .running (.post Config.postVBlankBudget) }) ∧
    (bit s.ctrl 7 = true → ∃ t, step s = .next t ∧
      t = { s with
        status := 0x80, phase := .running (.post Config.postVBlankBudget), ram := t.ram, sp := s.sp - 3
        p := s.p ||| 0x04, pc := word (s.cart.mapperRead 0xFFFB) (s.cart.mapperRead 0xFFFA) } ∧
      t.ram.read (0x100 + s.sp.toNat) = hi s.pc ∧ t.ram.read (0x100 + (s.sp - 1).toNat) = lo s.pc ∧
      t.ram.read (0x100 + (s.sp - 2).toNat) = (s.p &&& 0xEF) ||| 0x20 ∧
      ∀ k, k ≠ 0x100 + s.sp.toNat → k ≠ 0x100 + (s.sp - 1).toNat → k ≠ 0x100 + (s.sp - 2).toNat →
        t.ram.read k = s.ram.read k)

/-- The steps of a frame that run no instruction: the call of frame(), render() after the first budget, setVBlank(false) and
notify() after the second, with POST_VBLANK_BUDGET below PRE_VBLANK_BUDGET (R380, 00_scope.md R8). That a call of frame() comes
when no other is pending is this model's choice (notes/assumptions/2.md). -/
def Obligations.FrameStepsInOrder : Prop :=
  Config.postVBlankBudget < Config.preVBlankBudget ∧
  ∀ s : State,
    (s.phase = .loaded ∨ s.phase = .idle → s.calls = [] →
      step s = .next { s with phase := .running (.pre Config.preVBlankBudget) }) ∧
    (s.phase = .running (.pre 0) → step s = .next { s with fb := s.render.fb, phase := .running .vblank }) ∧
    (s.phase = .running (.post 0) →
      step s = .next { s with
        status := s.status &&& 0x7F, phase := .idle, notifications := s.notifications + 1 })

/-- Until the session ends every step answers a next state, in one of the phases the frame loop allows: an execute() spends one of
its budget or stops, render() is followed by VBlank, VBlank by the second budget, and that by Idle (R373, R380, R383, R385). The
fault of a step after the end is this model's choice (notes/assumptions/6.md). -/
def Obligations.PhasesFollowTheFrameLoop : Prop :=
  (∀ s : State, s.phase ≠ .ended → ∃ t, step s = .next t ∧ t.phase ∈ s.phase.successors) ∧
  ∀ s : State, s.phase = .ended → step s = .fault .sessionEnded

/-- The step that stops the machine records the fault: the opcode's address and the registers as the fault found them; it renders
nothing and notifies nobody. From then on no step changes anything but to take the host's calls away,
and only the end of the session leaves Stopped (R362, R383). -/
def Obligations.FaultStopsTheFrameLoop : Prop :=
  (∀ s t : State, s.phase ≠ .stopped → step s = .next t → t.phase = .stopped →
    ∃ r, t.fault = some r ∧ r.pc = s.pc ∧ r.a = t.a ∧ r.x = t.x ∧ r.y = t.y ∧ r.s = t.sp ∧ r.p = t.p ∧
      t.fb = s.fb ∧ t.notifications = s.notifications) ∧
  (∀ s t : State, step s = .next t → t.fault ≠ s.fault → t.phase = .stopped) ∧
  ∀ s t : State, s.phase = .stopped → step s = .next t →
    t = { s with calls := t.calls, phase := t.phase } ∧
      (t.phase = .stopped ∨ (t.phase = .ended ∧ s.calls.head? = some .stop))

/-- Only render() changes the frame buffer, only the end of a completed frame notifies, the buttons change only between frames,
and no step changes the cartridge (10_state.md R33; 60_exceptions.md R382, R384; 20_memory.md R88). -/
def Obligations.RareStateChangesOnlyWhereAllowed : Prop :=
  ∀ s t : State, step s = .next t →
    t.cart = s.cart ∧
    (t.fb ≠ s.fb → s.phase = .running (.pre 0)) ∧
    (t.notifications ≠ s.notifications → s.phase = .running (.post 0)) ∧
    (t.buttons ≠ s.buttons → s.phase = .loaded ∨ s.phase = .idle)

/-- The host's calls between frames: a call of frame() begins the first instruction budget and changes nothing else (R380), a button
setter changes its button and nothing else, JIDX included, and stopping ends the session (R384, R385). That the calls are taken from a list, one a step, is this model's choice (notes/assumptions/2.md). -/
def Obligations.HostCallsBetweenFrames : Prop :=
  (∀ (s : State) (rest : List HostCall), s.phase = .loaded ∨ s.phase = .idle → s.calls = .frame :: rest →
    step s = .next { s with phase := .running (.pre Config.preVBlankBudget), calls := rest }) ∧
  (∀ (s : State) (rest : List HostCall) (which : Button) (down : Bool), s.phase = .loaded ∨ s.phase = .idle →
    s.calls = .setButton which down :: rest →
    ∃ t, step s = .next t ∧ t = { s with buttons := t.buttons, calls := rest } ∧
      (which = .a → t.buttons = { s.buttons with a := down }) ∧ (which = .b → t.buttons = { s.buttons with b := down }) ∧
      (which = .select → t.buttons = { s.buttons with select := down }) ∧
      (which = .start → t.buttons = { s.buttons with start := down }) ∧
      (which = .up → t.buttons = { s.buttons with up := down }) ∧ (which = .down → t.buttons = { s.buttons with down := down }) ∧
      (which = .left → t.buttons = { s.buttons with left := down }) ∧
      (which = .right → t.buttons = { s.buttons with right := down })) ∧
  ∀ (s : State) (rest : List HostCall), s.phase = .loaded ∨ s.phase = .idle ∨ s.phase = .stopped →
    s.calls = .stop :: rest → step s = .next { s with phase := .ended, calls := rest }

/-! 10_state.md R39, R40; 20_memory.md R85 to R87; 70_reset_and_hazards.md R400. -/

/-- The state after reset, for every cartridge: the reset vector in PC, and every other register and memory as R40 lists it
(R39, R40, R401). -/
def Obligations.ResetEstablishesTheListedValues : Prop :=
  ∀ c : Cartridge,
    let s := State.powerOn c
    s.pc = word (c.mapperRead 0xFFFD) (c.mapperRead 0xFFFC) ∧
    s.a = 0x00 ∧ s.x = 0x00 ∧ s.y = 0x00 ∧ s.sp = 0xFD ∧ s.p = 0x24 ∧ s.cart = c ∧
    (∀ k, s.ram.read k = 0x00 ∧ s.vram.read k = 0x00 ∧ s.pal.read k = 0x00 ∧ s.oam.read k = 0x00 ∧
      s.chrRam.read k = 0x00 ∧ s.fb.read k = 0x00) ∧
    s.ctrl = 0x00 ∧ s.mask = 0x00 ∧ s.status = 0x00 ∧ s.oamaddr = 0x00 ∧ s.scrollX = 0x00 ∧ s.scrollY = 0x00 ∧
    s.vaddr = 0x0000 ∧ s.w = false ∧ s.rdbuf = 0x00 ∧ (∀ k < 8, s.buttons.get k = false) ∧ s.jidx.val = 0 ∧
    s.fault = none ∧ s.phase = .loaded

/-- An image is refused exactly when it is shorter than its header, names no program bank or is shorter than its header declares;
no state exists then, and otherwise the state is that after reset (R87, R365, R400). -/
def Obligations.MalformedImagesAreRefused : Prop :=
  ∀ img : List Byte,
    let prgBanks := (img.getD 4 0).toNat
    let chrBanks := (img.getD 5 0).toNat
    let bad := img.length < 16 ∨ prgBanks = 0 ∨ img.length < 16 + 16384 * prgBanks + 8192 * chrBanks
    (bad → State.load img = .error .malformedCartridge) ∧
    (¬ bad → State.load img = .ok (State.powerOn (Cartridge.slice img)))

/-- A loaded image's banks are header bytes 4 and 5; program-ROM is the bytes after the header and graphics-ROM the bytes after
those, and bytes beyond are not kept (R85, R86). -/
def Obligations.LoadedImageIsSliced : Prop :=
  ∀ (img : List Byte) (s : State), State.load img = .ok s →
    img[4]? = some s.cart.prgBanks ∧ img[5]? = some s.cart.chrBanks ∧
    (∀ k < 16384 * s.cart.prgBanks.toNat, img[16 + k]? = some (s.cart.prg.read k)) ∧
    (∀ k < 8192 * s.cart.chrBanks.toNat,
      img[16 + 16384 * s.cart.prgBanks.toNat + k]? = some (s.cart.chrRom.read k)) ∧
    s.cart.prg.below (16384 * s.cart.prgBanks.toNat) ∧ s.cart.chrRom.below (8192 * s.cart.chrBanks.toNat)

/-! 40_addressing.md to 46_illegal.md: the instructions. -/

/-- The effective address of every mode, in numbers, with its wraps; the operand read through it; and JMP's pointer with the
page-wrap bug. Resolving changes no state (40_addressing.md R132 to R143). -/
def Obligations.AddressingModesResolve : Prop :=
  ∀ s : State,
    (∀ b : Byte,
      resolve (.zeropage b) s = .ok (.ea (BitVec.ofNat 16 b.toNat)) s ∧
      resolve (.zeropageX b) s = .ok (.ea (BitVec.ofNat 16 ((b.toNat + s.x.toNat) % 256))) s ∧
      resolve (.zeropageY b) s = .ok (.ea (BitVec.ofNat 16 ((b.toNat + s.y.toNat) % 256))) s ∧
      (let p := (b.toNat + s.x.toNat) % 256
       resolve (.indirectX b) s =
         .ok (.ea (BitVec.ofNat 16 ((s.ram.read ((p + 1) % 256)).toNat * 256 + (s.ram.read p).toNat))) s) ∧
      resolve (.indirectY b) s =
        .ok (.ea (BitVec.ofNat 16
          (((s.ram.read ((b.toNat + 1) % 256)).toNat * 256 + (s.ram.read b.toNat).toNat + s.y.toNat) % 65536))) s) ∧
    (∀ w : Word,
      resolve (.absolute w) s = .ok (.ea w) s ∧
      resolve (.absoluteX w) s = .ok (.ea (BitVec.ofNat 16 ((w.toNat + s.x.toNat) % 65536))) s ∧
      resolve (.absoluteY w) s = .ok (.ea (BitVec.ofNat 16 ((w.toNat + s.y.toNat) % 65536))) s) ∧
    (∀ (m : Mode) (a : Word), resolve m s = .ok (.ea a) s → readOperand m s = busRead a s) ∧
    (∀ v : Byte, readOperand (.immediate v) s = .ok v s) ∧ readOperand .accumulator s = .ok s.a s ∧
    (∀ w : Word, resolveTarget (.absolute w) s = .ok w s) ∧
    ∀ (p : Word) (l h : Byte) (t u : State), busRead p s = .ok l t →
      busRead (BitVec.ofNat 16 (p.toNat / 256 * 256 + (p.toNat + 1) % 256)) t = .ok h u →
      resolveTarget (.indirect p) s = .ok (BitVec.ofNat 16 (h.toNat * 256 + l.toNat)) u

/-- LDA, LDX, LDY and LAX: the operand in the register, N and Z from it, nothing else (41_load_store_transfer.md R150 to R152,
46_illegal.md R266). -/
def Obligations.LoadsLoadTheOperand : Prop :=
  EncodesAs .lda [(.immediate, 0xA9), (.zeropage, 0xA5), (.zeropageX, 0xB5), (.absolute, 0xAD), (.absoluteX, 0xBD),
    (.absoluteY, 0xB9), (.indirectX, 0xA1), (.indirectY, 0xB1)] ∧
  EncodesAs .ldx [(.immediate, 0xA2), (.zeropage, 0xA6), (.zeropageY, 0xB6), (.absolute, 0xAE), (.absoluteY, 0xBE)] ∧
  EncodesAs .ldy [(.immediate, 0xA0), (.zeropage, 0xA4), (.zeropageX, 0xB4), (.absolute, 0xAC), (.absoluteX, 0xBC)] ∧
  EncodesAs .lax [(.zeropage, 0xA7), (.zeropageY, 0xB7), (.absolute, 0xAF), (.absoluteY, 0xBF), (.indirectX, 0xA3),
    (.indirectY, 0xB3)] ∧
  Reads .lda (fun v t => { t with a := v, p := withNZ v t.p }) ∧
  Reads .ldx (fun v t => { t with x := v, p := withNZ v t.p }) ∧
  Reads .ldy (fun v t => { t with y := v, p := withNZ v t.p }) ∧
  Reads .lax (fun v t => { t with a := v, x := v, p := withNZ v t.p })

/-- STA, STX, STY and SAX: one write of the register to the effective address and nothing else, no flag and no read
(R153 to R155, R265). -/
def Obligations.StoresStoreTheRegister : Prop :=
  EncodesAs .sta [(.zeropage, 0x85), (.zeropageX, 0x95), (.absolute, 0x8D), (.absoluteX, 0x9D), (.absoluteY, 0x99),
    (.indirectX, 0x81), (.indirectY, 0x91)] ∧
  EncodesAs .stx [(.zeropage, 0x86), (.zeropageY, 0x96), (.absolute, 0x8E)] ∧
  EncodesAs .sty [(.zeropage, 0x84), (.zeropageX, 0x94), (.absolute, 0x8C)] ∧
  EncodesAs .sax [(.zeropage, 0x87), (.zeropageY, 0x97), (.absolute, 0x8F), (.indirectX, 0x83)] ∧
  Stores .sta (·.a) ∧ Stores .stx (·.x) ∧ Stores .sty (·.y) ∧ Stores .sax (fun s => s.a &&& s.x)

/-- The register transfers and the increments and decrements of X and Y, in every state (R156 to R161; 42_arith_logic.md R183 to
R186). -/
def Obligations.RegisterInstructions : Prop :=
  encode .tax = [0xAA] ∧ encode .tay = [0xA8] ∧ encode .txa = [0x8A] ∧ encode .tya = [0x98] ∧ encode .tsx = [0xBA] ∧
  encode .txs = [0x9A] ∧ encode .inx = [0xE8] ∧ encode .iny = [0xC8] ∧ encode .dex = [0xCA] ∧ encode .dey = [0x88] ∧
  ∀ s : State,
    exec .tax s = .next { s with x := s.a, p := withNZ s.a s.p } ∧
    exec .tay s = .next { s with y := s.a, p := withNZ s.a s.p } ∧
    exec .txa s = .next { s with a := s.x, p := withNZ s.x s.p } ∧
    exec .tya s = .next { s with a := s.y, p := withNZ s.y s.p } ∧
    exec .tsx s = .next { s with x := s.sp, p := withNZ s.sp s.p } ∧
    exec .txs s = .next { s with sp := s.x } ∧
    (let r := BitVec.ofNat 8 ((s.x.toNat + 1) % 256)
     exec .inx s = .next { s with x := r, p := withNZ r s.p }) ∧
    (let r := BitVec.ofNat 8 ((s.y.toNat + 1) % 256)
     exec .iny s = .next { s with y := r, p := withNZ r s.p }) ∧
    (let r := BitVec.ofNat 8 ((s.x.toNat + 255) % 256)
     exec .dex s = .next { s with x := r, p := withNZ r s.p }) ∧
    (let r := BitVec.ofNat 8 ((s.y.toNat + 255) % 256)
     exec .dey s = .next { s with y := r, p := withNZ r s.p })

/-- ADC, SBC and USBC: the exact sum or difference with carry or borrow, narrowed, with N, V, Z and C as R172 and R173 say, never
adjusted for decimal mode (R172, R173; 46_illegal.md R273). -/
def Obligations.AddAndSubtract : Prop :=
  EncodesAs .adc [(.immediate, 0x69), (.zeropage, 0x65), (.zeropageX, 0x75), (.absolute, 0x6D), (.absoluteX, 0x7D),
    (.absoluteY, 0x79), (.indirectX, 0x61), (.indirectY, 0x71)] ∧
  EncodesAs .sbc [(.immediate, 0xE9), (.zeropage, 0xE5), (.zeropageX, 0xF5), (.absolute, 0xED), (.absoluteX, 0xFD),
    (.absoluteY, 0xF9), (.indirectX, 0xE1), (.indirectY, 0xF1)] ∧
  Reads .adc afterAdd ∧ Reads .sbc afterSubtract ∧
  ∀ (v : Byte) (s : State), encode (.usbc v) = [0xEB, v] ∧ exec (.usbc v) s = .next (afterSubtract v s)

/-- V after ADC and SBC says that the signed result is out of range, C that the unsigned one is (for SBC that there is no borrow);
A is the result modulo 256, whatever D is (R170, R173, R187). -/
def Obligations.OverflowIsSignedOverflow : Prop :=
  ∀ (m : Mode) (v : Byte) (s t : State), (Instr.adc m).wf = true → readOperand m s = .ok v t →
    let c := carryOf t
    (∃ u, exec (.adc m) s = .next u ∧ u.a.toNat = (t.a.toNat + v.toNat + c) % 256 ∧
      (getFlag .c u.p = true ↔ 256 ≤ t.a.toNat + v.toNat + c) ∧
      (getFlag .v u.p = true ↔ t.a.toInt + v.toInt + c < -128 ∨ 127 < t.a.toInt + v.toInt + c)) ∧
    ∃ u, exec (.sbc m) s = .next u ∧ (u.a.toNat : Int) = ((t.a.toNat : Int) - v.toNat - (1 - c)) % 256 ∧
      (getFlag .c u.p = true ↔ (v.toNat : Int) + (1 - c) ≤ t.a.toNat) ∧
      (getFlag .v u.p = true ↔ t.a.toInt - v.toInt - (1 - c) < -128 ∨ 127 < t.a.toInt - v.toInt - (1 - c))

/-- AND, ORA, EOR and BIT (R174 to R177). -/
def Obligations.LogicAndBitTest : Prop :=
  EncodesAs .and [(.immediate, 0x29), (.zeropage, 0x25), (.zeropageX, 0x35), (.absolute, 0x2D), (.absoluteX, 0x3D),
    (.absoluteY, 0x39), (.indirectX, 0x21), (.indirectY, 0x31)] ∧
  EncodesAs .ora [(.immediate, 0x09), (.zeropage, 0x05), (.zeropageX, 0x15), (.absolute, 0x0D), (.absoluteX, 0x1D),
    (.absoluteY, 0x19), (.indirectX, 0x01), (.indirectY, 0x11)] ∧
  EncodesAs .eor [(.immediate, 0x49), (.zeropage, 0x45), (.zeropageX, 0x55), (.absolute, 0x4D), (.absoluteX, 0x5D),
    (.absoluteY, 0x59), (.indirectX, 0x41), (.indirectY, 0x51)] ∧
  EncodesAs .bit [(.zeropage, 0x24), (.absolute, 0x2C)] ∧
  Reads .and (fun v t => { t with a := t.a &&& v, p := withNZ (t.a &&& v) t.p }) ∧
  Reads .ora (fun v t => { t with a := t.a ||| v, p := withNZ (t.a ||| v) t.p }) ∧
  Reads .eor (fun v t => { t with a := t.a ^^^ v, p := withNZ (t.a ^^^ v) t.p }) ∧
  Reads .bit (fun v t => { t with p := (t.p &&& 0x3D) ||| flagBits (bit v 7) (bit v 6) (t.a &&& v == 0) false })

/-- CMP, CPX and CPY: N, Z and C of the comparison and nothing else, V included (R171, R178 to R180). -/
def Obligations.ComparesSetFlagsOnly : Prop :=
  EncodesAs .cmp [(.immediate, 0xC9), (.zeropage, 0xC5), (.zeropageX, 0xD5), (.absolute, 0xCD), (.absoluteX, 0xDD),
    (.absoluteY, 0xD9), (.indirectX, 0xC1), (.indirectY, 0xD1)] ∧
  EncodesAs .cpx [(.immediate, 0xE0), (.zeropage, 0xE4), (.absolute, 0xEC)] ∧
  EncodesAs .cpy [(.immediate, 0xC0), (.zeropage, 0xC4), (.absolute, 0xCC)] ∧
  Reads .cmp (fun v t => { t with p := afterCompare t.a v t.p }) ∧
  Reads .cpx (fun v t => { t with p := afterCompare t.x v t.p }) ∧
  Reads .cpy (fun v t => { t with p := afterCompare t.y v t.p })

/-- INC, DEC, ASL, LSR, ROL and ROR on memory: one read, one write of the result, then the flags (R181, R182; 43_shift_rotate.md
R201 to R204), and the four shifts of A. -/
def Obligations.IncrementsAndShifts : Prop :=
  EncodesAs .inc [(.zeropage, 0xE6), (.zeropageX, 0xF6), (.absolute, 0xEE), (.absoluteX, 0xFE)] ∧
  EncodesAs .dec [(.zeropage, 0xC6), (.zeropageX, 0xD6), (.absolute, 0xCE), (.absoluteX, 0xDE)] ∧
  EncodesAs .asl [(.accumulator, 0x0A), (.zeropage, 0x06), (.zeropageX, 0x16), (.absolute, 0x0E), (.absoluteX, 0x1E)] ∧
  EncodesAs .lsr [(.accumulator, 0x4A), (.zeropage, 0x46), (.zeropageX, 0x56), (.absolute, 0x4E), (.absoluteX, 0x5E)] ∧
  EncodesAs .rol [(.accumulator, 0x2A), (.zeropage, 0x26), (.zeropageX, 0x36), (.absolute, 0x2E), (.absoluteX, 0x3E)] ∧
  EncodesAs .ror [(.accumulator, 0x6A), (.zeropage, 0x66), (.zeropageX, 0x76), (.absolute, 0x6E), (.absoluteX, 0x7E)] ∧
  (let up := fun v : Byte => BitVec.ofNat 8 (2 * v.toNat % 256)
   let down := fun v : Byte => BitVec.ofNat 8 (v.toNat / 2)
   let rolled := fun (v : Byte) (s : State) => BitVec.ofNat 8 (2 * v.toNat % 256 + carryOf s)
   let rored := fun (v : Byte) (s : State) => BitVec.ofNat 8 (v.toNat / 2 + 128 * carryOf s)
   Modifies .inc (fun v _ => BitVec.ofNat 8 ((v.toNat + 1) % 256)) (fun _ r u => { u with p := withNZ r u.p }) ∧
   Modifies .dec (fun v _ => BitVec.ofNat 8 ((v.toNat + 255) % 256)) (fun _ r u => { u with p := withNZ r u.p }) ∧
   Modifies .asl (fun v _ => up v) (fun v r u => { u with p := withNZC r (bit v 7) u.p }) ∧
   Modifies .lsr (fun v _ => down v) (fun v r u => { u with p := withNZC r (bit v 0) u.p }) ∧
   Modifies .rol rolled (fun v r u => { u with p := withNZC r (bit v 7) u.p }) ∧
   Modifies .ror rored (fun v r u => { u with p := withNZC r (bit v 0) u.p }) ∧
   ∀ s : State,
     exec (.asl .accumulator) s = .next { s with a := up s.a, p := withNZC (up s.a) (bit s.a 7) s.p } ∧
     exec (.lsr .accumulator) s = .next { s with a := down s.a, p := withNZC (down s.a) (bit s.a 0) s.p } ∧
     exec (.rol .accumulator) s = .next { s with a := rolled s.a s, p := withNZC (rolled s.a s) (bit s.a 7) s.p } ∧
     exec (.ror .accumulator) s = .next { s with a := rored s.a s, p := withNZC (rored s.a s) (bit s.a 0) s.p })

/-- JMP, JSR and RTS: the target in PC, or the fault recorded where JMP's pointer is unmapped; JSR pushes the address of its own
last byte, high then low, and RTS pulls it and adds 1 (44_control.md R210 to R212). -/
def Obligations.JumpsCallsAndReturns : Prop :=
  EncodesAs .jmp [(.absolute, 0x4C), (.indirect, 0x6C)] ∧ (∀ w : Word, encode (.jsr w) = [0x20, lo w, hi w]) ∧
  encode .rts = [0x60] ∧
  (∀ (m : Mode) (s t : State), (Instr.jmp m).wf = true →
    (∀ w, resolveTarget m s = .ok w t → exec (.jmp m) s = .next { t with pc := w }) ∧
    ∀ a access, resolveTarget m s = .error (.unmapped a access) t → StopsUnmapped (.jmp m) s a access t) ∧
  (∀ (w : Word) (s : State), s.ram.wf → ∃ t, exec (.jsr w) s = .next t ∧
    t = { s with ram := t.ram, sp := s.sp - 2, pc := w } ∧
    t.ram.read (0x100 + s.sp.toNat) = hi (s.pc - 1) ∧ t.ram.read (0x100 + (s.sp - 1).toNat) = lo (s.pc - 1) ∧
    ∀ k, k ∈ pushedSlots (.jsr w) s.sp ∨ t.ram.read k = s.ram.read k) ∧
  ∀ s : State, exec .rts s = .next { s with
    sp := s.sp + 2
    pc := BitVec.ofNat 16 (((s.ram.read (0x100 + (s.sp + 2).toNat)).toNat * 256 +
      (s.ram.read (0x100 + (s.sp + 1).toNat)).toNat + 1) % 65536) }

/-- BRK skips its padding byte unread, pushes PC high, PC low and P with B and R set, sets I and jumps through $FFFE/$FFFF; RTI
pulls P with R forced to 1 and B cleared, then PC, with nothing added (R213, R216; 60_exceptions.md R368). -/
def Obligations.BreakAndReturnFromInterrupt : Prop :=
  encode .brk = [0x00] ∧ encode .rti = [0x40] ∧
  (∀ s : State, s.ram.wf → ∃ t, exec .brk s = .next t ∧
    t = { s with
      ram := t.ram, sp := s.sp - 3, p := s.p ||| 0x04
      pc := word (s.cart.mapperRead 0xFFFF) (s.cart.mapperRead 0xFFFE) } ∧
    t.ram.read (0x100 + s.sp.toNat) = hi (s.pc + 1) ∧ t.ram.read (0x100 + (s.sp - 1).toNat) = lo (s.pc + 1) ∧
    t.ram.read (0x100 + (s.sp - 2).toNat) = s.p ||| 0x30 ∧
    ∀ k, k ∈ pushedSlots .brk s.sp ∨ t.ram.read k = s.ram.read k) ∧
  ∀ s : State, exec .rti s = .next { s with
    sp := s.sp + 3
    p := (s.ram.read (0x100 + (s.sp + 1).toNat) ||| 0x20) &&& 0xEF
    pc := word (s.ram.read (0x100 + (s.sp + 3).toNat)) (s.ram.read (0x100 + (s.sp + 2).toNat)) }

/-- The eight branches, each on its flag, to PC plus the signed displacement modulo 65536 (R217 to R225). -/
def Obligations.BranchesTestTheirFlag : Prop :=
  (∀ d : Byte, encode (.bpl d) = [0x10, d] ∧ encode (.bmi d) = [0x30, d] ∧ encode (.bvc d) = [0x50, d] ∧
    encode (.bvs d) = [0x70, d] ∧ encode (.bcc d) = [0x90, d] ∧ encode (.bcs d) = [0xB0, d] ∧
    encode (.bne d) = [0xD0, d] ∧ encode (.beq d) = [0xF0, d]) ∧
  Branches .bpl .n false ∧ Branches .bmi .n true ∧ Branches .bvc .v false ∧ Branches .bvs .v true ∧
  Branches .bcc .c false ∧ Branches .bcs .c true ∧ Branches .bne .z false ∧ Branches .beq .z true

/-- PHA, PHP, PLA and PLP: the pushed byte, P with bits 5 and 4 set for PHP, the pulled byte, with bit 5 forced to 1 for PLP, and
S by one, wrapping in page $01 (45_stack_flags_nop.md R240 to R243). -/
def Obligations.PushesAndPulls : Prop :=
  encode .pha = [0x48] ∧ encode .php = [0x08] ∧ encode .pla = [0x68] ∧ encode .plp = [0x28] ∧
  ∀ s : State, s.ram.wf →
    (∃ t, exec .pha s = .next t ∧ t = { s with ram := t.ram, sp := s.sp - 1 } ∧
      t.ram.read (0x100 + s.sp.toNat) = s.a ∧ ∀ k, k ∈ pushedSlots .pha s.sp ∨ t.ram.read k = s.ram.read k) ∧
    (∃ t, exec .php s = .next t ∧ t = { s with ram := t.ram, sp := s.sp - 1 } ∧
      t.ram.read (0x100 + s.sp.toNat) = s.p ||| 0x30 ∧ ∀ k, k ∈ pushedSlots .php s.sp ∨ t.ram.read k = s.ram.read k) ∧
    (let v := s.ram.read (0x100 + (s.sp + 1).toNat)
     exec .pla s = .next { s with sp := s.sp + 1, a := v, p := withNZ v s.p } ∧
     exec .plp s = .next { s with sp := s.sp + 1, p := v ||| 0x20 })

/-- CLC, SEC, CLI, SEI, CLD, SED and CLV: one bit of P and nothing else (R244 to R250). -/
def Obligations.FlagInstructions : Prop :=
  encode .clc = [0x18] ∧ encode .sec = [0x38] ∧ encode .cli = [0x58] ∧ encode .sei = [0x78] ∧ encode .cld = [0xD8] ∧
  encode .sed = [0xF8] ∧ encode .clv = [0xB8] ∧
  ∀ s : State,
    exec .clc s = .next { s with p := s.p &&& 0xFE } ∧ exec .sec s = .next { s with p := s.p ||| 0x01 } ∧
    exec .cli s = .next { s with p := s.p &&& 0xFB } ∧ exec .sei s = .next { s with p := s.p ||| 0x04 } ∧
    exec .cld s = .next { s with p := s.p &&& 0xF7 } ∧ exec .sed s = .next { s with p := s.p ||| 0x08 } ∧
    exec .clv s = .next { s with p := s.p &&& 0xBF }

/-- NOP in all its forms: nothing in implied mode; with an operand, its read with the read's side effects, the byte discarded
(R251; 46_illegal.md R274 to R276). -/
def Obligations.NopFormsOnlyRead : Prop :=
  (∀ op ∈ ([0xEA, 0x1A, 0x3A, 0x5A, 0x7A, 0xDA, 0xFA] : List Byte), EncodesAs (.nop op) [(.implied, op)] ∧
    ∀ s : State, exec (.nop op .implied) s = .next s) ∧
  (∀ op ∈ ([0x80, 0x82, 0x89, 0xC2, 0xE2] : List Byte), EncodesAs (.nop op) [(.immediate, op)]) ∧
  (∀ op ∈ ([0x04, 0x44, 0x64] : List Byte), EncodesAs (.nop op) [(.zeropage, op)]) ∧
  (∀ op ∈ ([0x14, 0x34, 0x54, 0x74, 0xD4, 0xF4] : List Byte), EncodesAs (.nop op) [(.zeropageX, op)]) ∧
  EncodesAs (.nop 0x0C) [(.absolute, 0x0C)] ∧
  (∀ op ∈ ([0x1C, 0x3C, 0x5C, 0x7C, 0xDC, 0xFC] : List Byte), EncodesAs (.nop op) [(.absoluteX, op)]) ∧
  ∀ op : Byte, Reads (.nop op) fun _ t => t

/-- SLO, RLA, SRE, RRA, DCP and ISC: the shift, rotate or step of the byte in memory, then its effect on A or the comparison
(R261 to R264, R267, R268). -/
def Obligations.CombinedReadModifyWrite : Prop :=
  EncodesAs .slo [(.zeropage, 0x07), (.zeropageX, 0x17), (.absolute, 0x0F), (.absoluteX, 0x1F), (.absoluteY, 0x1B),
    (.indirectX, 0x03), (.indirectY, 0x13)] ∧
  EncodesAs .rla [(.zeropage, 0x27), (.zeropageX, 0x37), (.absolute, 0x2F), (.absoluteX, 0x3F), (.absoluteY, 0x3B),
    (.indirectX, 0x23), (.indirectY, 0x33)] ∧
  EncodesAs .sre [(.zeropage, 0x47), (.zeropageX, 0x57), (.absolute, 0x4F), (.absoluteX, 0x5F), (.absoluteY, 0x5B),
    (.indirectX, 0x43), (.indirectY, 0x53)] ∧
  EncodesAs .rra [(.zeropage, 0x67), (.zeropageX, 0x77), (.absolute, 0x6F), (.absoluteX, 0x7F), (.absoluteY, 0x7B),
    (.indirectX, 0x63), (.indirectY, 0x73)] ∧
  EncodesAs .dcp [(.zeropage, 0xC7), (.zeropageX, 0xD7), (.absolute, 0xCF), (.absoluteX, 0xDF), (.absoluteY, 0xDB),
    (.indirectX, 0xC3), (.indirectY, 0xD3)] ∧
  EncodesAs .isc [(.zeropage, 0xE7), (.zeropageX, 0xF7), (.absolute, 0xEF), (.absoluteX, 0xFF), (.absoluteY, 0xFB),
    (.indirectX, 0xE3), (.indirectY, 0xF3)] ∧
  Modifies .slo (fun v _ => BitVec.ofNat 8 (2 * v.toNat % 256))
    (fun v r u => { u with a := u.a ||| r, p := withNZC (u.a ||| r) (bit v 7) u.p }) ∧
  Modifies .rla (fun v t => BitVec.ofNat 8 (2 * v.toNat % 256 + carryOf t))
    (fun v r u => { u with a := u.a &&& r, p := withNZC (u.a &&& r) (bit v 7) u.p }) ∧
  Modifies .sre (fun v _ => BitVec.ofNat 8 (v.toNat / 2))
    (fun v r u => { u with a := u.a ^^^ r, p := withNZC (u.a ^^^ r) (bit v 0) u.p }) ∧
  Modifies .rra (fun v t => BitVec.ofNat 8 (v.toNat / 2 + 128 * carryOf t))
    (fun v r u => afterAdd r { u with p := putFlag .c (bit v 0) u.p }) ∧
  Modifies .dcp (fun v _ => BitVec.ofNat 8 ((v.toNat + 255) % 256)) (fun _ r u => { u with p := afterCompare u.a r u.p }) ∧
  Modifies .isc (fun v _ => BitVec.ofNat 8 ((v.toNat + 1) % 256)) (fun _ r u => afterSubtract r u)

/-- ANC, ALR, ARR and SBX, in every state (R269 to R272). -/
def Obligations.ImmediateCombinations : Prop :=
  ∀ (v : Byte) (s : State),
    encode (.anc 0x0B v) = [0x0B, v] ∧ encode (.anc 0x2B v) = [0x2B, v] ∧ encode (.alr v) = [0x4B, v] ∧
    encode (.arr v) = [0x6B, v] ∧ encode (.sbx v) = [0xCB, v] ∧
    (∀ op, op = 0x0B ∨ op = 0x2B →
      exec (.anc op v) s = .next { s with a := s.a &&& v, p := withNZC (s.a &&& v) (bit (s.a &&& v) 7) s.p }) ∧
    (let r := BitVec.ofNat 8 ((s.a &&& v).toNat / 2)
     exec (.alr v) s = .next { s with a := r, p := withNZC r (bit (s.a &&& v) 0) s.p }) ∧
    (let r := BitVec.ofNat 8 ((s.a &&& v).toNat / 2 + 128 * carryOf s)
     exec (.arr v) s = .next { s with a := r, p := withNVZC r (bit r 6 != bit r 5) (bit r 6) s.p }) ∧
    (let r := BitVec.ofNat 8 (((s.a &&& s.x).toNat + 256 - v.toNat) % 256)
     exec (.sbx v) s = .next { s with x := r, p := withNZC r (decide (v.toNat ≤ (s.a &&& s.x).toNat)) s.p })

/-! What holds of every instruction. -/

/-- An operand at an unmapped address ends the instruction with the fault recorded, before anything was written: the access is a
write for a store and a read for every other instruction. JMP faults on the byte of its pointer that is unmapped, and a store to
$4014 of a page in the hole on the first byte of that page (60_exceptions.md R361, R362). -/
def Obligations.UnmappedOperandIsRecorded : Prop :=
  (∀ (i : Instr) (s : State) (a : Word), i.wf = true → faulting i = false → isJump i = false →
    dataAddress i s = some a → mapped a = false →
    exec i s = .next { s with
      fault := some { cls := .unmappedAddress a (if isStore i then .write else .read), opcode := i.opcode
                      pc := s.pc - BitVec.ofNat 16 i.fetchedBytes, a := s.a, x := s.x, y := s.y, s := s.sp, p := s.p }
      phase := .stopped }) ∧
  (∀ (p : Word) (s : State), mapped p = false →
    exec (.jmp (.indirect p)) s = .next (s.recordFault (.unmappedAddress p .read) (some 0x6C) (s.pc - 3))) ∧
  (∀ s : State,
    exec (.jmp (.indirect 0x4017)) s = .next (s.recordFault (.unmappedAddress 0x4018 .read) (some 0x6C) (s.pc - 3))) ∧
  ∀ (i : Instr) (s : State) (v : Byte), i.wf = true → storedValue i s = some v → dataAddress i s = some 0x4014 →
    0x41 ≤ v.toNat → v.toNat ≤ 0x7F →
    exec i s = .next (s.recordFault (.unmappedAddress (BitVec.ofNat 16 (v.toNat * 256)) .read) i.opcode
      (s.pc - BitVec.ofNat 16 i.fetchedBytes))

/-- Every instruction of the machine answers a next state in every state, a completed one or a recorded fault (60_exceptions.md
R373). That a term that is no instruction, a mnemonic with a mode it does not have, is refused by name is the model's choice
(notes/assumptions/13.md): the machine has no such term, since the condition R118 names is unreachable. -/
def Obligations.EveryInstructionAnswersNext : Prop :=
  ∀ (i : Instr) (s : State),
    (i.wf = true → ∃ t, exec i s = .next t ∧
      ((t.phase = s.phase ∧ t.fault = s.fault) ∨ (t.phase = .stopped ∧ t.fault.isSome = true))) ∧
    (i.wf = false → exec i s = .refused .invalidMode)

/-- Every executed instruction completes, with no fault recorded and the phase as it was, whenever its operand is at a mapped
address, a store to $4014 names a page without a hole, and JMP's pointer is mapped (R373). -/
def Obligations.EveryExecutedInstructionCompletes : Prop :=
  ∀ (i : Instr) (s : State), i.wf = true → faulting i = false →
    (isJump i = false → ∀ a, dataAddress i s = some a → mapped a = true) →
    (dataAddress i s = some 0x4014 → ∀ v, storedValue i s = some v → v.toNat < 0x40 ∨ 0x80 ≤ v.toNat) →
    (∀ p, i = .jmp (.indirect p) → mapped p = true ∧ p ≠ 0x4017) →
    ∃ t, exec i s = .next t ∧ t.phase = s.phase ∧ t.fault = s.fault

/-- What is pushed is pulled: PHA and PLA, PHP and PLP, JSR and RTS, BRK and RTI, from every stack pointer, page wrap included
(the source's examples of 95_test_vectors.md E3 to E5; 44_control.md R212, R216). -/
def Obligations.StackRoundTrips : Prop :=
  ∀ s : State, s.ram.wf →
    (∃ t u, exec .pha s = .next t ∧ exec .pla t = .next u ∧ u.a = s.a ∧ u.sp = s.sp ∧ u.p = withNZ s.a s.p) ∧
    (∃ t u, exec .php s = .next t ∧ exec .plp t = .next u ∧ u.p = s.p ||| 0x30 ∧ u.sp = s.sp) ∧
    (∀ w : Word, ∃ t u, exec (.jsr w) s = .next t ∧ t.pc = w ∧ exec .rts t = .next u ∧ u.pc = s.pc ∧ u.sp = s.sp) ∧
    ∃ t u, exec .brk s = .next t ∧ exec .rti t = .next u ∧ u.pc = s.pc + 1 ∧ u.sp = s.sp ∧
      u.p = (s.p ||| 0x20) &&& 0xEF

/-- An instruction that 10_state.md R21 to R23 do not list as a writer of A, X, Y or S leaves it as it was, completed or stopped
by a fault; and no instruction changes the cartridge, the frame buffer, the buttons, the host's calls or the notifications. -/
def Obligations.RegistersNotListedAreUnchanged : Prop :=
  ∀ (i : Instr) (s t : State), exec i s = .next t →
    (writesA i = false → t.a = s.a) ∧ (writesX i = false → t.x = s.x) ∧ (writesY i = false → t.y = s.y) ∧
    (writesS i = false → t.sp = s.sp) ∧ SameOutside s t

/-- "An instruction not listed for a flag leaves that flag unchanged" (R28): every flag of P not in R28's table for the
instruction, in every state whose reserved bit is 1, completed or stopped by a fault. -/
def Obligations.FlagsNotListedAreUnchanged : Prop :=
  ∀ (i : Instr) (s t : State) (f : Flag), getFlag .r s.p = true → exec i s = .next t → writesFlag i f = false →
    getFlag f t.p = getFlag f s.p

/-- An instruction that neither stores, nor modifies memory, nor pushes leaves every byte of every memory and every write-only
PPU register as it was (40_addressing.md R144, R146); its reads may move only the read side effects of 20_memory.md R66. -/
def Obligations.OtherInstructionsLeaveMemory : Prop :=
  ∀ (i : Instr) (s t : State), exec i s = .next t → isStore i = false → isPush i = false →
    isReadModifyWrite i = false ∨ i.mode = .accumulator → SameMemory s t

/-- A store or a read-modify-write instruction changes only the byte at its effective address, wherever the bus takes it, and a
push only its stack slots: every other byte of every memory and every other write-only PPU register is as before (R144, R146;
20_memory.md R66, R70 to R73). -/
def Obligations.StoresLeaveOtherBytes : Prop :=
  (∀ (i : Instr) (s t : State) (a : Word), Inv s → exec i s = .next t →
    isStore i = true ∨ isReadModifyWrite i = true → dataAddress i s = some a →
    let u := storeState i s a
    (∀ k, a.toNat ≤ 0x1FFF ∧ k = a.toNat % 0x800 ∨ t.ram.read k = s.ram.read k) ∧
    (∀ k, isPort 4 a = true ∧ k = u.oamaddr.toNat ∨ a = 0x4014 ∨ t.oam.read k = s.oam.read k) ∧
    (∀ k, isPort 7 a = true ∧ samePpuCell s u.vaddr.toNat k = true ∨ t.ppuRead k = s.ppuRead k) ∧
    (isPort 0 a = true ∨ t.ctrl = s.ctrl) ∧ (isPort 1 a = true ∨ t.mask = s.mask) ∧
    (isPort 3 a = true ∨ isPort 4 a = true ∨ t.oamaddr = s.oamaddr) ∧
    (isPort 5 a = true ∨ (t.scrollX = s.scrollX ∧ t.scrollY = s.scrollY))) ∧
  ∀ (i : Instr) (s t : State), s.ram.wf → exec i s = .next t → isPush i = true →
    (∀ k, k ∈ pushedSlots i s.sp ∨ t.ram.read k = s.ram.read k) ∧ SameMemory { s with ram := t.ram } t

/-! The invariant. -/

/-- Every step keeps the invariant: bit 5 of P is 1, STATUS is $00 or $80 and $80 only after the VBlank step, the machine is
stopped exactly by a recorded fault, and every memory is in canonical form within its size (10_state.md R26, R30 to R33;
50_ppu.md R312, R317; 60_exceptions.md R383). -/
def Obligations.InvariantKeptByEveryStep : Prop :=
  ∀ s t : State, Inv s → step s = .next t → Inv t

/-- The invariant holds after reset, for the blank cartridge and for every image that passes the load check (10_state.md R40). -/
def Obligations.InvariantHoldsAfterReset : Prop :=
  Inv State.reset ∧ ∀ (img : List Byte) (s : State), State.load img = .ok s → Inv s
end

