-- ==== Sys2Proof/Laws/State.lean ====
section
/-! SUPPORT. Every field of the state after every register write, flag write, RAM write and fault record: one lemma per field per
update, so that no proof unfolds a record update. -/

namespace Sys2Proof.Machine.State

variable (s : State)

@[simp] theorem setA_a (v : Byte) : (s.setA v).a = v := rfl
@[simp] theorem setA_x (v : Byte) : (s.setA v).x = s.x := rfl
@[simp] theorem setA_y (v : Byte) : (s.setA v).y = s.y := rfl
@[simp] theorem setA_sp (v : Byte) : (s.setA v).sp = s.sp := rfl
@[simp] theorem setA_pc (v : Byte) : (s.setA v).pc = s.pc := rfl
@[simp] theorem setA_p (v : Byte) : (s.setA v).p = s.p := rfl
@[simp] theorem setA_ram (v : Byte) : (s.setA v).ram = s.ram := rfl
@[simp] theorem setA_cart (v : Byte) : (s.setA v).cart = s.cart := rfl
@[simp] theorem setA_chrRam (v : Byte) : (s.setA v).chrRam = s.chrRam := rfl
@[simp] theorem setA_vram (v : Byte) : (s.setA v).vram = s.vram := rfl
@[simp] theorem setA_pal (v : Byte) : (s.setA v).pal = s.pal := rfl
@[simp] theorem setA_oam (v : Byte) : (s.setA v).oam = s.oam := rfl
@[simp] theorem setA_fb (v : Byte) : (s.setA v).fb = s.fb := rfl
@[simp] theorem setA_ctrl (v : Byte) : (s.setA v).ctrl = s.ctrl := rfl
@[simp] theorem setA_mask (v : Byte) : (s.setA v).mask = s.mask := rfl
@[simp] theorem setA_status (v : Byte) : (s.setA v).status = s.status := rfl
@[simp] theorem setA_oamaddr (v : Byte) : (s.setA v).oamaddr = s.oamaddr := rfl
@[simp] theorem setA_scrollX (v : Byte) : (s.setA v).scrollX = s.scrollX := rfl
@[simp] theorem setA_scrollY (v : Byte) : (s.setA v).scrollY = s.scrollY := rfl
@[simp] theorem setA_vaddr (v : Byte) : (s.setA v).vaddr = s.vaddr := rfl
@[simp] theorem setA_w (v : Byte) : (s.setA v).w = s.w := rfl
@[simp] theorem setA_rdbuf (v : Byte) : (s.setA v).rdbuf = s.rdbuf := rfl
@[simp] theorem setA_buttons (v : Byte) : (s.setA v).buttons = s.buttons := rfl
@[simp] theorem setA_jidx (v : Byte) : (s.setA v).jidx = s.jidx := rfl
@[simp] theorem setA_fault (v : Byte) : (s.setA v).fault = s.fault := rfl
@[simp] theorem setA_phase (v : Byte) : (s.setA v).phase = s.phase := rfl
@[simp] theorem setA_calls (v : Byte) : (s.setA v).calls = s.calls := rfl
@[simp] theorem setA_notifications (v : Byte) : (s.setA v).notifications = s.notifications := rfl

@[simp] theorem setX_a (v : Byte) : (s.setX v).a = s.a := rfl
@[simp] theorem setX_x (v : Byte) : (s.setX v).x = v := rfl
@[simp] theorem setX_y (v : Byte) : (s.setX v).y = s.y := rfl
@[simp] theorem setX_sp (v : Byte) : (s.setX v).sp = s.sp := rfl
@[simp] theorem setX_pc (v : Byte) : (s.setX v).pc = s.pc := rfl
@[simp] theorem setX_p (v : Byte) : (s.setX v).p = s.p := rfl
@[simp] theorem setX_ram (v : Byte) : (s.setX v).ram = s.ram := rfl
@[simp] theorem setX_cart (v : Byte) : (s.setX v).cart = s.cart := rfl
@[simp] theorem setX_chrRam (v : Byte) : (s.setX v).chrRam = s.chrRam := rfl
@[simp] theorem setX_vram (v : Byte) : (s.setX v).vram = s.vram := rfl
@[simp] theorem setX_pal (v : Byte) : (s.setX v).pal = s.pal := rfl
@[simp] theorem setX_oam (v : Byte) : (s.setX v).oam = s.oam := rfl
@[simp] theorem setX_fb (v : Byte) : (s.setX v).fb = s.fb := rfl
@[simp] theorem setX_ctrl (v : Byte) : (s.setX v).ctrl = s.ctrl := rfl
@[simp] theorem setX_mask (v : Byte) : (s.setX v).mask = s.mask := rfl
@[simp] theorem setX_status (v : Byte) : (s.setX v).status = s.status := rfl
@[simp] theorem setX_oamaddr (v : Byte) : (s.setX v).oamaddr = s.oamaddr := rfl
@[simp] theorem setX_scrollX (v : Byte) : (s.setX v).scrollX = s.scrollX := rfl
@[simp] theorem setX_scrollY (v : Byte) : (s.setX v).scrollY = s.scrollY := rfl
@[simp] theorem setX_vaddr (v : Byte) : (s.setX v).vaddr = s.vaddr := rfl
@[simp] theorem setX_w (v : Byte) : (s.setX v).w = s.w := rfl
@[simp] theorem setX_rdbuf (v : Byte) : (s.setX v).rdbuf = s.rdbuf := rfl
@[simp] theorem setX_buttons (v : Byte) : (s.setX v).buttons = s.buttons := rfl
@[simp] theorem setX_jidx (v : Byte) : (s.setX v).jidx = s.jidx := rfl
@[simp] theorem setX_fault (v : Byte) : (s.setX v).fault = s.fault := rfl
@[simp] theorem setX_phase (v : Byte) : (s.setX v).phase = s.phase := rfl
@[simp] theorem setX_calls (v : Byte) : (s.setX v).calls = s.calls := rfl
@[simp] theorem setX_notifications (v : Byte) : (s.setX v).notifications = s.notifications := rfl

@[simp] theorem setY_a (v : Byte) : (s.setY v).a = s.a := rfl
@[simp] theorem setY_x (v : Byte) : (s.setY v).x = s.x := rfl
@[simp] theorem setY_y (v : Byte) : (s.setY v).y = v := rfl
@[simp] theorem setY_sp (v : Byte) : (s.setY v).sp = s.sp := rfl
@[simp] theorem setY_pc (v : Byte) : (s.setY v).pc = s.pc := rfl
@[simp] theorem setY_p (v : Byte) : (s.setY v).p = s.p := rfl
@[simp] theorem setY_ram (v : Byte) : (s.setY v).ram = s.ram := rfl
@[simp] theorem setY_cart (v : Byte) : (s.setY v).cart = s.cart := rfl
@[simp] theorem setY_chrRam (v : Byte) : (s.setY v).chrRam = s.chrRam := rfl
@[simp] theorem setY_vram (v : Byte) : (s.setY v).vram = s.vram := rfl
@[simp] theorem setY_pal (v : Byte) : (s.setY v).pal = s.pal := rfl
@[simp] theorem setY_oam (v : Byte) : (s.setY v).oam = s.oam := rfl
@[simp] theorem setY_fb (v : Byte) : (s.setY v).fb = s.fb := rfl
@[simp] theorem setY_ctrl (v : Byte) : (s.setY v).ctrl = s.ctrl := rfl
@[simp] theorem setY_mask (v : Byte) : (s.setY v).mask = s.mask := rfl
@[simp] theorem setY_status (v : Byte) : (s.setY v).status = s.status := rfl
@[simp] theorem setY_oamaddr (v : Byte) : (s.setY v).oamaddr = s.oamaddr := rfl
@[simp] theorem setY_scrollX (v : Byte) : (s.setY v).scrollX = s.scrollX := rfl
@[simp] theorem setY_scrollY (v : Byte) : (s.setY v).scrollY = s.scrollY := rfl
@[simp] theorem setY_vaddr (v : Byte) : (s.setY v).vaddr = s.vaddr := rfl
@[simp] theorem setY_w (v : Byte) : (s.setY v).w = s.w := rfl
@[simp] theorem setY_rdbuf (v : Byte) : (s.setY v).rdbuf = s.rdbuf := rfl
@[simp] theorem setY_buttons (v : Byte) : (s.setY v).buttons = s.buttons := rfl
@[simp] theorem setY_jidx (v : Byte) : (s.setY v).jidx = s.jidx := rfl
@[simp] theorem setY_fault (v : Byte) : (s.setY v).fault = s.fault := rfl
@[simp] theorem setY_phase (v : Byte) : (s.setY v).phase = s.phase := rfl
@[simp] theorem setY_calls (v : Byte) : (s.setY v).calls = s.calls := rfl
@[simp] theorem setY_notifications (v : Byte) : (s.setY v).notifications = s.notifications := rfl

@[simp] theorem setS_a (v : Byte) : (s.setS v).a = s.a := rfl
@[simp] theorem setS_x (v : Byte) : (s.setS v).x = s.x := rfl
@[simp] theorem setS_y (v : Byte) : (s.setS v).y = s.y := rfl
@[simp] theorem setS_sp (v : Byte) : (s.setS v).sp = v := rfl
@[simp] theorem setS_pc (v : Byte) : (s.setS v).pc = s.pc := rfl
@[simp] theorem setS_p (v : Byte) : (s.setS v).p = s.p := rfl
@[simp] theorem setS_ram (v : Byte) : (s.setS v).ram = s.ram := rfl
@[simp] theorem setS_cart (v : Byte) : (s.setS v).cart = s.cart := rfl
@[simp] theorem setS_chrRam (v : Byte) : (s.setS v).chrRam = s.chrRam := rfl
@[simp] theorem setS_vram (v : Byte) : (s.setS v).vram = s.vram := rfl
@[simp] theorem setS_pal (v : Byte) : (s.setS v).pal = s.pal := rfl
@[simp] theorem setS_oam (v : Byte) : (s.setS v).oam = s.oam := rfl
@[simp] theorem setS_fb (v : Byte) : (s.setS v).fb = s.fb := rfl
@[simp] theorem setS_ctrl (v : Byte) : (s.setS v).ctrl = s.ctrl := rfl
@[simp] theorem setS_mask (v : Byte) : (s.setS v).mask = s.mask := rfl
@[simp] theorem setS_status (v : Byte) : (s.setS v).status = s.status := rfl
@[simp] theorem setS_oamaddr (v : Byte) : (s.setS v).oamaddr = s.oamaddr := rfl
@[simp] theorem setS_scrollX (v : Byte) : (s.setS v).scrollX = s.scrollX := rfl
@[simp] theorem setS_scrollY (v : Byte) : (s.setS v).scrollY = s.scrollY := rfl
@[simp] theorem setS_vaddr (v : Byte) : (s.setS v).vaddr = s.vaddr := rfl
@[simp] theorem setS_w (v : Byte) : (s.setS v).w = s.w := rfl
@[simp] theorem setS_rdbuf (v : Byte) : (s.setS v).rdbuf = s.rdbuf := rfl
@[simp] theorem setS_buttons (v : Byte) : (s.setS v).buttons = s.buttons := rfl
@[simp] theorem setS_jidx (v : Byte) : (s.setS v).jidx = s.jidx := rfl
@[simp] theorem setS_fault (v : Byte) : (s.setS v).fault = s.fault := rfl
@[simp] theorem setS_phase (v : Byte) : (s.setS v).phase = s.phase := rfl
@[simp] theorem setS_calls (v : Byte) : (s.setS v).calls = s.calls := rfl
@[simp] theorem setS_notifications (v : Byte) : (s.setS v).notifications = s.notifications := rfl

@[simp] theorem setPc_a (v : Word) : (s.setPc v).a = s.a := rfl
@[simp] theorem setPc_x (v : Word) : (s.setPc v).x = s.x := rfl
@[simp] theorem setPc_y (v : Word) : (s.setPc v).y = s.y := rfl
@[simp] theorem setPc_sp (v : Word) : (s.setPc v).sp = s.sp := rfl
@[simp] theorem setPc_pc (v : Word) : (s.setPc v).pc = v := rfl
@[simp] theorem setPc_p (v : Word) : (s.setPc v).p = s.p := rfl
@[simp] theorem setPc_ram (v : Word) : (s.setPc v).ram = s.ram := rfl
@[simp] theorem setPc_cart (v : Word) : (s.setPc v).cart = s.cart := rfl
@[simp] theorem setPc_chrRam (v : Word) : (s.setPc v).chrRam = s.chrRam := rfl
@[simp] theorem setPc_vram (v : Word) : (s.setPc v).vram = s.vram := rfl
@[simp] theorem setPc_pal (v : Word) : (s.setPc v).pal = s.pal := rfl
@[simp] theorem setPc_oam (v : Word) : (s.setPc v).oam = s.oam := rfl
@[simp] theorem setPc_fb (v : Word) : (s.setPc v).fb = s.fb := rfl
@[simp] theorem setPc_ctrl (v : Word) : (s.setPc v).ctrl = s.ctrl := rfl
@[simp] theorem setPc_mask (v : Word) : (s.setPc v).mask = s.mask := rfl
@[simp] theorem setPc_status (v : Word) : (s.setPc v).status = s.status := rfl
@[simp] theorem setPc_oamaddr (v : Word) : (s.setPc v).oamaddr = s.oamaddr := rfl
@[simp] theorem setPc_scrollX (v : Word) : (s.setPc v).scrollX = s.scrollX := rfl
@[simp] theorem setPc_scrollY (v : Word) : (s.setPc v).scrollY = s.scrollY := rfl
@[simp] theorem setPc_vaddr (v : Word) : (s.setPc v).vaddr = s.vaddr := rfl
@[simp] theorem setPc_w (v : Word) : (s.setPc v).w = s.w := rfl
@[simp] theorem setPc_rdbuf (v : Word) : (s.setPc v).rdbuf = s.rdbuf := rfl
@[simp] theorem setPc_buttons (v : Word) : (s.setPc v).buttons = s.buttons := rfl
@[simp] theorem setPc_jidx (v : Word) : (s.setPc v).jidx = s.jidx := rfl
@[simp] theorem setPc_fault (v : Word) : (s.setPc v).fault = s.fault := rfl
@[simp] theorem setPc_phase (v : Word) : (s.setPc v).phase = s.phase := rfl
@[simp] theorem setPc_calls (v : Word) : (s.setPc v).calls = s.calls := rfl
@[simp] theorem setPc_notifications (v : Word) : (s.setPc v).notifications = s.notifications := rfl

@[simp] theorem setP_a (v : Byte) : (s.setP v).a = s.a := rfl
@[simp] theorem setP_x (v : Byte) : (s.setP v).x = s.x := rfl
@[simp] theorem setP_y (v : Byte) : (s.setP v).y = s.y := rfl
@[simp] theorem setP_sp (v : Byte) : (s.setP v).sp = s.sp := rfl
@[simp] theorem setP_pc (v : Byte) : (s.setP v).pc = s.pc := rfl
@[simp] theorem setP_p (v : Byte) : (s.setP v).p = v ||| 0x20 := rfl
@[simp] theorem setP_ram (v : Byte) : (s.setP v).ram = s.ram := rfl
@[simp] theorem setP_cart (v : Byte) : (s.setP v).cart = s.cart := rfl
@[simp] theorem setP_chrRam (v : Byte) : (s.setP v).chrRam = s.chrRam := rfl
@[simp] theorem setP_vram (v : Byte) : (s.setP v).vram = s.vram := rfl
@[simp] theorem setP_pal (v : Byte) : (s.setP v).pal = s.pal := rfl
@[simp] theorem setP_oam (v : Byte) : (s.setP v).oam = s.oam := rfl
@[simp] theorem setP_fb (v : Byte) : (s.setP v).fb = s.fb := rfl
@[simp] theorem setP_ctrl (v : Byte) : (s.setP v).ctrl = s.ctrl := rfl
@[simp] theorem setP_mask (v : Byte) : (s.setP v).mask = s.mask := rfl
@[simp] theorem setP_status (v : Byte) : (s.setP v).status = s.status := rfl
@[simp] theorem setP_oamaddr (v : Byte) : (s.setP v).oamaddr = s.oamaddr := rfl
@[simp] theorem setP_scrollX (v : Byte) : (s.setP v).scrollX = s.scrollX := rfl
@[simp] theorem setP_scrollY (v : Byte) : (s.setP v).scrollY = s.scrollY := rfl
@[simp] theorem setP_vaddr (v : Byte) : (s.setP v).vaddr = s.vaddr := rfl
@[simp] theorem setP_w (v : Byte) : (s.setP v).w = s.w := rfl
@[simp] theorem setP_rdbuf (v : Byte) : (s.setP v).rdbuf = s.rdbuf := rfl
@[simp] theorem setP_buttons (v : Byte) : (s.setP v).buttons = s.buttons := rfl
@[simp] theorem setP_jidx (v : Byte) : (s.setP v).jidx = s.jidx := rfl
@[simp] theorem setP_fault (v : Byte) : (s.setP v).fault = s.fault := rfl
@[simp] theorem setP_phase (v : Byte) : (s.setP v).phase = s.phase := rfl
@[simp] theorem setP_calls (v : Byte) : (s.setP v).calls = s.calls := rfl
@[simp] theorem setP_notifications (v : Byte) : (s.setP v).notifications = s.notifications := rfl

@[simp] theorem setFlag_a (f : Flag) (b : Bool) : (s.setFlag f b).a = s.a := rfl
@[simp] theorem setFlag_x (f : Flag) (b : Bool) : (s.setFlag f b).x = s.x := rfl
@[simp] theorem setFlag_y (f : Flag) (b : Bool) : (s.setFlag f b).y = s.y := rfl
@[simp] theorem setFlag_sp (f : Flag) (b : Bool) : (s.setFlag f b).sp = s.sp := rfl
@[simp] theorem setFlag_pc (f : Flag) (b : Bool) : (s.setFlag f b).pc = s.pc := rfl
@[simp] theorem setFlag_p (f : Flag) (b : Bool) : (s.setFlag f b).p = putFlag f b s.p := rfl
@[simp] theorem setFlag_ram (f : Flag) (b : Bool) : (s.setFlag f b).ram = s.ram := rfl
@[simp] theorem setFlag_cart (f : Flag) (b : Bool) : (s.setFlag f b).cart = s.cart := rfl
@[simp] theorem setFlag_chrRam (f : Flag) (b : Bool) : (s.setFlag f b).chrRam = s.chrRam := rfl
@[simp] theorem setFlag_vram (f : Flag) (b : Bool) : (s.setFlag f b).vram = s.vram := rfl
@[simp] theorem setFlag_pal (f : Flag) (b : Bool) : (s.setFlag f b).pal = s.pal := rfl
@[simp] theorem setFlag_oam (f : Flag) (b : Bool) : (s.setFlag f b).oam = s.oam := rfl
@[simp] theorem setFlag_fb (f : Flag) (b : Bool) : (s.setFlag f b).fb = s.fb := rfl
@[simp] theorem setFlag_ctrl (f : Flag) (b : Bool) : (s.setFlag f b).ctrl = s.ctrl := rfl
@[simp] theorem setFlag_mask (f : Flag) (b : Bool) : (s.setFlag f b).mask = s.mask := rfl
@[simp] theorem setFlag_status (f : Flag) (b : Bool) : (s.setFlag f b).status = s.status := rfl
@[simp] theorem setFlag_oamaddr (f : Flag) (b : Bool) : (s.setFlag f b).oamaddr = s.oamaddr := rfl
@[simp] theorem setFlag_scrollX (f : Flag) (b : Bool) : (s.setFlag f b).scrollX = s.scrollX := rfl
@[simp] theorem setFlag_scrollY (f : Flag) (b : Bool) : (s.setFlag f b).scrollY = s.scrollY := rfl
@[simp] theorem setFlag_vaddr (f : Flag) (b : Bool) : (s.setFlag f b).vaddr = s.vaddr := rfl
@[simp] theorem setFlag_w (f : Flag) (b : Bool) : (s.setFlag f b).w = s.w := rfl
@[simp] theorem setFlag_rdbuf (f : Flag) (b : Bool) : (s.setFlag f b).rdbuf = s.rdbuf := rfl
@[simp] theorem setFlag_buttons (f : Flag) (b : Bool) : (s.setFlag f b).buttons = s.buttons := rfl
@[simp] theorem setFlag_jidx (f : Flag) (b : Bool) : (s.setFlag f b).jidx = s.jidx := rfl
@[simp] theorem setFlag_fault (f : Flag) (b : Bool) : (s.setFlag f b).fault = s.fault := rfl
@[simp] theorem setFlag_phase (f : Flag) (b : Bool) : (s.setFlag f b).phase = s.phase := rfl
@[simp] theorem setFlag_calls (f : Flag) (b : Bool) : (s.setFlag f b).calls = s.calls := rfl
@[simp] theorem setFlag_notifications (f : Flag) (b : Bool) : (s.setFlag f b).notifications = s.notifications := rfl

@[simp] theorem setNZ_a (v : Byte) : (s.setNZ v).a = s.a := rfl
@[simp] theorem setNZ_x (v : Byte) : (s.setNZ v).x = s.x := rfl
@[simp] theorem setNZ_y (v : Byte) : (s.setNZ v).y = s.y := rfl
@[simp] theorem setNZ_sp (v : Byte) : (s.setNZ v).sp = s.sp := rfl
@[simp] theorem setNZ_pc (v : Byte) : (s.setNZ v).pc = s.pc := rfl
@[simp] theorem setNZ_p (v : Byte) : (s.setNZ v).p = putFlag .z (v == 0) (putFlag .n (bit v 7) s.p) := rfl
@[simp] theorem setNZ_ram (v : Byte) : (s.setNZ v).ram = s.ram := rfl
@[simp] theorem setNZ_cart (v : Byte) : (s.setNZ v).cart = s.cart := rfl
@[simp] theorem setNZ_chrRam (v : Byte) : (s.setNZ v).chrRam = s.chrRam := rfl
@[simp] theorem setNZ_vram (v : Byte) : (s.setNZ v).vram = s.vram := rfl
@[simp] theorem setNZ_pal (v : Byte) : (s.setNZ v).pal = s.pal := rfl
@[simp] theorem setNZ_oam (v : Byte) : (s.setNZ v).oam = s.oam := rfl
@[simp] theorem setNZ_fb (v : Byte) : (s.setNZ v).fb = s.fb := rfl
@[simp] theorem setNZ_ctrl (v : Byte) : (s.setNZ v).ctrl = s.ctrl := rfl
@[simp] theorem setNZ_mask (v : Byte) : (s.setNZ v).mask = s.mask := rfl
@[simp] theorem setNZ_status (v : Byte) : (s.setNZ v).status = s.status := rfl
@[simp] theorem setNZ_oamaddr (v : Byte) : (s.setNZ v).oamaddr = s.oamaddr := rfl
@[simp] theorem setNZ_scrollX (v : Byte) : (s.setNZ v).scrollX = s.scrollX := rfl
@[simp] theorem setNZ_scrollY (v : Byte) : (s.setNZ v).scrollY = s.scrollY := rfl
@[simp] theorem setNZ_vaddr (v : Byte) : (s.setNZ v).vaddr = s.vaddr := rfl
@[simp] theorem setNZ_w (v : Byte) : (s.setNZ v).w = s.w := rfl
@[simp] theorem setNZ_rdbuf (v : Byte) : (s.setNZ v).rdbuf = s.rdbuf := rfl
@[simp] theorem setNZ_buttons (v : Byte) : (s.setNZ v).buttons = s.buttons := rfl
@[simp] theorem setNZ_jidx (v : Byte) : (s.setNZ v).jidx = s.jidx := rfl
@[simp] theorem setNZ_fault (v : Byte) : (s.setNZ v).fault = s.fault := rfl
@[simp] theorem setNZ_phase (v : Byte) : (s.setNZ v).phase = s.phase := rfl
@[simp] theorem setNZ_calls (v : Byte) : (s.setNZ v).calls = s.calls := rfl
@[simp] theorem setNZ_notifications (v : Byte) : (s.setNZ v).notifications = s.notifications := rfl

@[simp] theorem ramWrite_a (a : Word) (v : Byte) : (s.ramWrite a v).a = s.a := rfl
@[simp] theorem ramWrite_x (a : Word) (v : Byte) : (s.ramWrite a v).x = s.x := rfl
@[simp] theorem ramWrite_y (a : Word) (v : Byte) : (s.ramWrite a v).y = s.y := rfl
@[simp] theorem ramWrite_sp (a : Word) (v : Byte) : (s.ramWrite a v).sp = s.sp := rfl
@[simp] theorem ramWrite_pc (a : Word) (v : Byte) : (s.ramWrite a v).pc = s.pc := rfl
@[simp] theorem ramWrite_p (a : Word) (v : Byte) : (s.ramWrite a v).p = s.p := rfl
@[simp] theorem ramWrite_ram (a : Word) (v : Byte) : (s.ramWrite a v).ram = s.ram.write (a.toNat % 0x800) v := rfl
@[simp] theorem ramWrite_cart (a : Word) (v : Byte) : (s.ramWrite a v).cart = s.cart := rfl
@[simp] theorem ramWrite_chrRam (a : Word) (v : Byte) : (s.ramWrite a v).chrRam = s.chrRam := rfl
@[simp] theorem ramWrite_vram (a : Word) (v : Byte) : (s.ramWrite a v).vram = s.vram := rfl
@[simp] theorem ramWrite_pal (a : Word) (v : Byte) : (s.ramWrite a v).pal = s.pal := rfl
@[simp] theorem ramWrite_oam (a : Word) (v : Byte) : (s.ramWrite a v).oam = s.oam := rfl
@[simp] theorem ramWrite_fb (a : Word) (v : Byte) : (s.ramWrite a v).fb = s.fb := rfl
@[simp] theorem ramWrite_ctrl (a : Word) (v : Byte) : (s.ramWrite a v).ctrl = s.ctrl := rfl
@[simp] theorem ramWrite_mask (a : Word) (v : Byte) : (s.ramWrite a v).mask = s.mask := rfl
@[simp] theorem ramWrite_status (a : Word) (v : Byte) : (s.ramWrite a v).status = s.status := rfl
@[simp] theorem ramWrite_oamaddr (a : Word) (v : Byte) : (s.ramWrite a v).oamaddr = s.oamaddr := rfl
@[simp] theorem ramWrite_scrollX (a : Word) (v : Byte) : (s.ramWrite a v).scrollX = s.scrollX := rfl
@[simp] theorem ramWrite_scrollY (a : Word) (v : Byte) : (s.ramWrite a v).scrollY = s.scrollY := rfl
@[simp] theorem ramWrite_vaddr (a : Word) (v : Byte) : (s.ramWrite a v).vaddr = s.vaddr := rfl
@[simp] theorem ramWrite_w (a : Word) (v : Byte) : (s.ramWrite a v).w = s.w := rfl
@[simp] theorem ramWrite_rdbuf (a : Word) (v : Byte) : (s.ramWrite a v).rdbuf = s.rdbuf := rfl
@[simp] theorem ramWrite_buttons (a : Word) (v : Byte) : (s.ramWrite a v).buttons = s.buttons := rfl
@[simp] theorem ramWrite_jidx (a : Word) (v : Byte) : (s.ramWrite a v).jidx = s.jidx := rfl
@[simp] theorem ramWrite_fault (a : Word) (v : Byte) : (s.ramWrite a v).fault = s.fault := rfl
@[simp] theorem ramWrite_phase (a : Word) (v : Byte) : (s.ramWrite a v).phase = s.phase := rfl
@[simp] theorem ramWrite_calls (a : Word) (v : Byte) : (s.ramWrite a v).calls = s.calls := rfl
@[simp] theorem ramWrite_notifications (a : Word) (v : Byte) : (s.ramWrite a v).notifications = s.notifications := rfl

@[simp] theorem recordFault_a (c : FaultClass) (o : Option Byte) (pc : Word) : (s.recordFault c o pc).a = s.a := rfl
@[simp] theorem recordFault_x (c : FaultClass) (o : Option Byte) (pc : Word) : (s.recordFault c o pc).x = s.x := rfl
@[simp] theorem recordFault_y (c : FaultClass) (o : Option Byte) (pc : Word) : (s.recordFault c o pc).y = s.y := rfl
@[simp] theorem recordFault_sp (c : FaultClass) (o : Option Byte) (pc : Word) : (s.recordFault c o pc).sp = s.sp := rfl
@[simp] theorem recordFault_pc (c : FaultClass) (o : Option Byte) (pc : Word) : (s.recordFault c o pc).pc = s.pc := rfl
@[simp] theorem recordFault_p (c : FaultClass) (o : Option Byte) (pc : Word) : (s.recordFault c o pc).p = s.p := rfl
@[simp] theorem recordFault_ram (c : FaultClass) (o : Option Byte) (pc : Word) : (s.recordFault c o pc).ram = s.ram := rfl
@[simp] theorem recordFault_cart (c : FaultClass) (o : Option Byte) (pc : Word) : (s.recordFault c o pc).cart = s.cart := rfl
@[simp] theorem recordFault_chrRam (c : FaultClass) (o : Option Byte) (pc : Word) : (s.recordFault c o pc).chrRam = s.chrRam := rfl
@[simp] theorem recordFault_vram (c : FaultClass) (o : Option Byte) (pc : Word) : (s.recordFault c o pc).vram = s.vram := rfl
@[simp] theorem recordFault_pal (c : FaultClass) (o : Option Byte) (pc : Word) : (s.recordFault c o pc).pal = s.pal := rfl
@[simp] theorem recordFault_oam (c : FaultClass) (o : Option Byte) (pc : Word) : (s.recordFault c o pc).oam = s.oam := rfl
@[simp] theorem recordFault_fb (c : FaultClass) (o : Option Byte) (pc : Word) : (s.recordFault c o pc).fb = s.fb := rfl
@[simp] theorem recordFault_ctrl (c : FaultClass) (o : Option Byte) (pc : Word) : (s.recordFault c o pc).ctrl = s.ctrl := rfl
@[simp] theorem recordFault_mask (c : FaultClass) (o : Option Byte) (pc : Word) : (s.recordFault c o pc).mask = s.mask := rfl
@[simp] theorem recordFault_status (c : FaultClass) (o : Option Byte) (pc : Word) : (s.recordFault c o pc).status = s.status := rfl
@[simp] theorem recordFault_oamaddr (c : FaultClass) (o : Option Byte) (pc : Word) : (s.recordFault c o pc).oamaddr = s.oamaddr := rfl
@[simp] theorem recordFault_scrollX (c : FaultClass) (o : Option Byte) (pc : Word) : (s.recordFault c o pc).scrollX = s.scrollX := rfl
@[simp] theorem recordFault_scrollY (c : FaultClass) (o : Option Byte) (pc : Word) : (s.recordFault c o pc).scrollY = s.scrollY := rfl
@[simp] theorem recordFault_vaddr (c : FaultClass) (o : Option Byte) (pc : Word) : (s.recordFault c o pc).vaddr = s.vaddr := rfl
@[simp] theorem recordFault_w (c : FaultClass) (o : Option Byte) (pc : Word) : (s.recordFault c o pc).w = s.w := rfl
@[simp] theorem recordFault_rdbuf (c : FaultClass) (o : Option Byte) (pc : Word) : (s.recordFault c o pc).rdbuf = s.rdbuf := rfl
@[simp] theorem recordFault_buttons (c : FaultClass) (o : Option Byte) (pc : Word) : (s.recordFault c o pc).buttons = s.buttons := rfl
@[simp] theorem recordFault_jidx (c : FaultClass) (o : Option Byte) (pc : Word) : (s.recordFault c o pc).jidx = s.jidx := rfl
@[simp] theorem recordFault_fault (c : FaultClass) (o : Option Byte) (pc : Word) : (s.recordFault c o pc).fault = some { cls := c, opcode := o, pc := pc, a := s.a, x := s.x, y := s.y, s := s.sp, p := s.p } := rfl
@[simp] theorem recordFault_phase (c : FaultClass) (o : Option Byte) (pc : Word) : (s.recordFault c o pc).phase = .stopped := rfl
@[simp] theorem recordFault_calls (c : FaultClass) (o : Option Byte) (pc : Word) : (s.recordFault c o pc).calls = s.calls := rfl
@[simp] theorem recordFault_notifications (c : FaultClass) (o : Option Byte) (pc : Word) : (s.recordFault c o pc).notifications = s.notifications := rfl

end Sys2Proof.Machine.State
end

