-- ==== Sys2Proof/Laws/Flags.lean ====
section
/-! SUPPORT. The flag computations in closed form: each flag of each status byte an instruction leaves, and each flag operation as
one record update in the words of Safety. -/

namespace Sys2Proof.Machine


/-- A written flag reads back; the other seven are kept. -/
theorem getFlag_putFlag (f g : Flag) (b : Bool) (p : Byte) :
    getFlag g (putFlag f b p) = if g = f then b else getFlag g p := by
  cases f <;> cases g <;> cases b <;> simp [getFlag, putFlag, bit, Flag.bit]

/-- A status byte is its eight flags. -/
theorem byte_ext {p q : Byte} (h : ∀ f, getFlag f p = getFlag f q) : p = q := by
  apply BitVec.eq_of_getLsbD_eq
  intro i hi
  have h7 := h .n; have h6 := h .v; have h5 := h .r; have h4 := h .b
  have h3 := h .d; have h2 := h .i; have h1 := h .z; have h0 := h .c
  simp only [getFlag, bit, Flag.bit] at *
  interval_cases i <;> assumption

theorem getFlag_flagBits (f : Flag) (n v z c : Bool) :
    getFlag f (flagBits n v z c) = match f with | .n => n | .v => v | .z => z | .c => c | _ => false := by
  cases f <;> revert n v z c <;> decide

theorem getFlag_or (f : Flag) (p q : Byte) : getFlag f (p ||| q) = (getFlag f p || getFlag f q) := by
  simp [getFlag, bit]

theorem getFlag_and (f : Flag) (p q : Byte) : getFlag f (p &&& q) = (getFlag f p && getFlag f q) := by
  simp [getFlag, bit]

theorem getFlag_withNZ (f : Flag) (r p : Byte) :
    getFlag f (withNZ r p) = match f with | .n => r.msb | .z => r == 0 | f => getFlag f p := by
  cases f <;> simp [withNZ, getFlag_or, getFlag_and, getFlag_flagBits] <;> simp [getFlag, Flag.bit, bit]

theorem getFlag_withNZC (f : Flag) (r p : Byte) (c : Bool) :
    getFlag f (withNZC r c p) = match f with | .n => r.msb | .z => r == 0 | .c => c | f => getFlag f p := by
  cases f <;> simp [withNZC, getFlag_or, getFlag_and, getFlag_flagBits] <;> simp [getFlag, Flag.bit, bit]

theorem getFlag_withNVZC (f : Flag) (r p : Byte) (v c : Bool) :
    getFlag f (withNVZC r v c p) = match f with | .n => r.msb | .z => r == 0 | .c => c | .v => v | f => getFlag f p := by
  cases f <;> simp [withNVZC, getFlag_or, getFlag_and, getFlag_flagBits] <;> simp [getFlag, Flag.bit, bit]

theorem getFlag_afterCompare (f : Flag) (r m p : Byte) :
    getFlag f (afterCompare r m p) = match f with
      | .n => (r - m).msb | .z => r == m | .c => decide (m.toNat ≤ r.toNat) | f => getFlag f p := by
  cases f <;> simp [afterCompare, getFlag_or, getFlag_and, getFlag_flagBits] <;> simp [getFlag, Flag.bit, bit]

theorem bit_msb (v : Byte) : bit v 7 = v.msb := by
  simp [bit, BitVec.msb_eq_getLsbD_last]

namespace State

/-- setNZ in one record update (00_scope.md R12). -/
theorem setNZ_eq (v : Byte) (s : State) : s.setNZ v = { s with p := withNZ v s.p } := by
  have : (putFlag .z (v == 0) (putFlag .n (Machine.bit v 7) s.p)) = withNZ v s.p := by
    apply byte_ext; intro f
    rw [getFlag_withNZ]
    cases f <;> simp [getFlag_putFlag, bit_msb]
  simp only [setNZ, setFlag, this]

/-- Compare in one record update (42_arith_logic.md R171). -/
theorem compare_eq (r m : Byte) (s : State) : s.compare r m = { s with p := afterCompare r m s.p } := by
  have : (putFlag .n (Machine.bit (r-m) 7) (putFlag .z (r==m) (putFlag .c (decide (m ≤ r)) s.p))) = afterCompare r m s.p := by
    apply byte_ext; intro f
    rw [getFlag_afterCompare]
    cases f <;> simp [getFlag_putFlag, bit_msb, BitVec.le_def]
  simp only [compare, setFlag, this]

/-- `P.C <- c; setNZ(v)` in one record update. -/
theorem setC_setNZ_eq (v : Byte) (c : Bool) (s : State) : (s.setFlag .c c).setNZ v = { s with p := withNZC v c s.p } := by
  have : withNZ v (putFlag .c c s.p) = withNZC v c s.p := by
    apply byte_ext; intro f
    rw [getFlag_withNZ, getFlag_withNZC]
    cases f <;> simp [getFlag_putFlag]
  rw [setNZ_eq]; simp only [setFlag, this]

/-- The overflow test of R170 in signs. -/
theorem overflow_eq (a m : Byte) (r : Byte) : ((a ^^^ r) &&& (m ^^^ r) &&& 0x80 != 0) = (a.msb == m.msb && r.msb != a.msb) := by
  have h : ∀ x : Byte, (x &&& 0x80 != 0) = x.msb := by decide
  rw [h]; simp only [BitVec.msb_and, BitVec.msb_xor]
  cases a.msb <;> cases m.msb <;> cases r.msb <;> rfl

/-- Addition into A in one record update, in numbers (R170, R172). -/
theorem addToA_eq (m : Byte) (s : State) : s.addToA m = afterAdd m s := by
  have : ∀ v c r p, withNZ r (putFlag .v v (putFlag .c c p)) = withNVZC r v c p := by
    intro v c r p
    apply byte_ext; intro f
    rw [getFlag_withNZ, getFlag_withNVZC]
    cases f <;> simp [getFlag_putFlag]
  simp only [addToA, addCore, overflow_eq, setNZ_eq, setA, setFlag, this, afterAdd, carryOf, flag]
  rfl

/-- Subtraction from A in one record update, in numbers (R173). -/
theorem subtractFromA_eq (m : Byte) (s : State) : s.subtractFromA m = afterSubtract m s := by
  have hm := m.isLt
  have ha := s.a.isLt
  have hn : (~~~m).toNat = 255 - m.toNat := by simp [BitVec.toNat_not]
  have hc : carryOf s ≤ 1 := by simp only [carryOf]; cases getFlag .c s.p <;> simp
  have hr : BitVec.ofNat 8 (s.a.toNat + (~~~m).toNat + carryOf s) = BitVec.ofNat 8 (s.a.toNat + 256 - m.toNat - (1 - carryOf s)) := by
    congr 1; omega
  have hd : decide (255 < s.a.toNat + (~~~m).toNat + carryOf s) = decide (m.toNat + 1 ≤ s.a.toNat + carryOf s) := by
    congr 1; simp only [eq_iff_iff]; omega
  rw [subtractFromA, addToA_eq]
  simp only [afterAdd, afterSubtract, hr, hd, BitVec.msb_not]
  congr 2
  cases s.a.msb <;> cases m.msb <;> simp

end State
end Sys2Proof.Machine
end

