-- ==== Sys2Proof/Laws/Bits.lean ====
section
/-! SUPPORT. Words and their bytes in numbers (00_scope.md R11). -/

namespace Sys2Proof.Machine

theorem word_toNat (h l : Byte) : (word h l).toNat = h.toNat * 256 + l.toNat := by
  have hl := l.isLt
  change (h ++ l : BitVec (8 + 8)).toNat = _
  rw [BitVec.toNat_append, Nat.shiftLeft_eq, Nat.mul_comm, ← Nat.two_pow_add_eq_or_of_lt hl]

theorem lo_toNat (w : Word) : (lo w).toNat = w.toNat % 256 := by
  simp [lo, BitVec.toNat_setWidth]

theorem hi_toNat (w : Word) : (hi w).toNat = w.toNat / 256 := by
  have := w.isLt
  simp [hi, BitVec.toNat_setWidth, BitVec.toNat_ushiftRight, Nat.shiftRight_eq_div_pow]
  omega

theorem zext16_toNat (v : Byte) : (zext16 v).toNat = v.toNat := by
  have := v.isLt
  simp [zext16]
  omega

@[simp] theorem word_hi_lo (w : Word) : word (hi w) (lo w) = w := by
  apply BitVec.eq_of_toNat_eq
  rw [word_toNat, hi_toNat, lo_toNat]
  omega

@[simp] theorem lo_word (h l : Byte) : lo (word h l) = l := by
  have := l.isLt
  apply BitVec.eq_of_toNat_eq
  rw [lo_toNat, word_toNat]
  omega

@[simp] theorem hi_word (h l : Byte) : hi (word h l) = h := by
  have := l.isLt
  apply BitVec.eq_of_toNat_eq
  rw [hi_toNat, word_toNat]
  omega

end Sys2Proof.Machine
end

