-- ==== Sys2Proof/Laws/Memory.lean ====
section
/-! SUPPORT. The laws of a memory: a read after a write, and that every operation keeps the canonical form and the bound. -/

namespace Sys2Proof.Machine.Memory

@[simp] theorem read_nil (a : Nat) : read [] a = blank := rfl

theorem read_cons (b : Nat) (v : Byte) (m : Memory) (a : Nat) :
    read ((b, v) :: m) a = if a = b then v else read m a := rfl

/-- A memory lists nothing at addresses below its first cell. -/
theorem read_of_lt {m : Memory} {a : Nat} (h : ∀ c ∈ m, a < c.1) : read m a = blank := by
  induction m with
  | nil => rfl
  | cons c m ih =>
    obtain ⟨b, v⟩ := c
    have hb : a < b := h (b, v) (by simp)
    rw [read_cons, if_neg (by omega)]
    exact ih fun c hc => h c (by simp [hc])

theorem mem_cons_of {a : Nat} {v : Byte} {m : Memory} {c : Host.Cell} (h : c ∈ cons a v m) : c = (a, v) ∨ c ∈ m := by
  unfold cons at h
  split at h
  · exact .inr h
  · simpa using h

theorem read_cons' {a : Nat} {m : Memory} (h : ∀ c ∈ m, a < c.1) (v : Byte) (k : Nat) :
    read (cons a v m) k = if k = a then v else read m k := by
  unfold cons
  split
  · rename_i hv
    split
    · rename_i hk
      rw [hk, read_of_lt h, hv]
    · rfl
  · exact read_cons a v m k

theorem wf_cons {a : Nat} {v : Byte} {m : Memory} (hm : m.wf) (h : ∀ c ∈ m, a < c.1) : (cons a v m).wf := by
  unfold cons
  split
  · exact hm
  · rename_i hv
    refine ⟨List.pairwise_cons.mpr ⟨fun c hc => h c hc, hm.1⟩, ?_⟩
    intro c hc
    rcases List.mem_cons.mp hc with rfl | hc
    · exact hv
    · exact hm.2 c hc

/-- What a write can list: the written cell, or a cell that was there. -/
theorem mem_write {m : Memory} {a : Nat} {v : Byte} {c : Host.Cell} (h : c ∈ write m a v) : c = (a, v) ∨ c ∈ m := by
  induction m with
  | nil => exact mem_cons_of h
  | cons d m ih =>
    obtain ⟨b, w⟩ := d
    simp only [write] at h
    split at h
    · exact mem_cons_of h
    · split at h
      · rcases mem_cons_of h with h | h
        · exact .inl h
        · exact .inr (by simp [h])
      · rcases List.mem_cons.mp h with rfl | h
        · exact .inr (by simp)
        · rcases ih h with h | h
          · exact .inl h
          · exact .inr (by simp [h])

theorem wf_tail {c : Host.Cell} {m : Memory} (h : wf (c :: m)) : m.wf ∧ ∀ d ∈ m, c.1 < d.1 :=
  ⟨⟨(List.pairwise_cons.mp h.1).2, fun d hd => h.2 d (by simp [hd])⟩, (List.pairwise_cons.mp h.1).1⟩

/-- A write keeps the canonical form. -/
theorem write_wf {m : Memory} (h : m.wf) (a : Nat) (v : Byte) : (write m a v).wf := by
  induction m with
  | nil => exact wf_cons h (by simp)
  | cons d m ih =>
    obtain ⟨b, w⟩ := d
    obtain ⟨hm, hb⟩ := wf_tail h
    simp only [write]
    split
    · rename_i hab
      refine wf_cons h fun c hc => ?_
      rcases List.mem_cons.mp hc with rfl | hc
      · exact hab
      · exact lt_trans hab (hb c hc)
    · split
      · rename_i hab
        exact wf_cons hm (hab ▸ hb)
      · rename_i hab hne
        refine ⟨List.pairwise_cons.mpr ⟨fun c hc => ?_, (ih hm).1⟩, fun c hc => ?_⟩
        · rcases mem_write hc with rfl | hc
          · change b < a; omega
          · exact hb c hc
        · rcases List.mem_cons.mp hc with rfl | hc
          · exact h.2 _ (by simp)
          · exact (ih hm).2 c hc

theorem write_below {m : Memory} {size : Nat} (h : m.below size) {a : Nat} (ha : a < size) (v : Byte) :
    (write m a v).below size := by
  intro c hc
  rcases mem_write hc with rfl | hc
  · exact ha
  · exact h c hc

/-- A read after a write: the written byte at its address, the old byte everywhere else. -/
theorem read_write {m : Memory} (h : m.wf) (a : Nat) (v : Byte) (k : Nat) :
    (write m a v).read k = if k = a then v else m.read k := by
  induction m with
  | nil => exact read_cons' (by simp) v k
  | cons d m ih =>
    obtain ⟨b, w⟩ := d
    obtain ⟨hm, hb⟩ := wf_tail h
    simp only [write]
    split
    · rename_i hab
      refine read_cons' (fun c hc => ?_) v k
      rcases List.mem_cons.mp hc with rfl | hc
      · exact hab
      · exact lt_trans hab (hb c hc)
    · split
      · rename_i hab
        subst hab
        rw [read_cons' hb, read_cons]
        split <;> rfl
      · rename_i hab hne
        rw [read_cons, read_cons, ih hm]
        split
        · rename_i hk; rw [if_neg (by omega)]
        · rfl

theorem read_write_same {m : Memory} (h : m.wf) (a : Nat) (v : Byte) : (write m a v).read a = v := by
  simp [read_write h]

theorem read_write_other {m : Memory} (h : m.wf) {a k : Nat} (hk : k ≠ a) (v : Byte) :
    (write m a v).read k = m.read k := by
  simp [read_write h, hk]

/-- Every address a built memory lists lies in the range it was built for. -/
theorem ofFn_range (f : Nat → Byte) (a n : Nat) : ∀ c ∈ ofFn f a n, a ≤ c.1 ∧ c.1 < a + n := by
  induction n generalizing a with
  | zero => intro c hc; simp [ofFn] at hc
  | succ n ih =>
    intro c hc
    rcases mem_cons_of hc with rfl | hc
    · simp
    · have := ih (a + 1) c hc
      omega

theorem ofFn_wf (f : Nat → Byte) (a n : Nat) : (ofFn f a n).wf := by
  induction n generalizing a with
  | zero => exact ⟨.nil, by simp [ofFn]⟩
  | succ n ih => exact wf_cons (ih (a + 1)) fun c hc => (ofFn_range f (a + 1) n c hc).1

theorem ofFn_below (f : Nat → Byte) (n : Nat) : (ofFn f 0 n).below n := fun c hc => by
  have := (ofFn_range f 0 n c hc).2
  omega

/-- What a built memory reads as. -/
theorem read_ofFn (f : Nat → Byte) (a n k : Nat) :
    (ofFn f a n).read k = if a ≤ k ∧ k < a + n then f k else blank := by
  induction n generalizing a with
  | zero => simp [ofFn]
  | succ n ih =>
    change (cons a (f a) (ofFn f (a + 1) n)).read k = _
    rw [read_cons' fun c hc => (ofFn_range f (a + 1) n c hc).1, ih]
    split
    · rename_i h; subst h; simp
    · congr 1
      simp only [eq_iff_iff]
      omega

theorem ofList_range (vs : List Byte) (a : Nat) : ∀ c ∈ ofList a vs, a ≤ c.1 ∧ c.1 < a + vs.length := by
  induction vs generalizing a with
  | nil => intro c hc; simp [ofList] at hc
  | cons v vs ih =>
    intro c hc
    rcases mem_cons_of hc with rfl | hc
    · simp
    · have := ih (a + 1) c hc
      simp only [List.length_cons]
      omega

theorem ofList_wf (vs : List Byte) (a : Nat) : (ofList a vs).wf := by
  induction vs generalizing a with
  | nil => exact ⟨.nil, by simp [ofList]⟩
  | cons v vs ih => exact wf_cons (ih (a + 1)) fun c hc => (ofList_range vs (a + 1) c hc).1

theorem ofList_below (vs : List Byte) : (ofList 0 vs).below vs.length := fun c hc => by
  have := (ofList_range vs 0 c hc).2
  omega

/-- What a memory made from a list reads as. -/
theorem read_ofList (vs : List Byte) (a k : Nat) :
    (ofList a vs).read (a + k) = vs.getD k blank := by
  induction vs generalizing a k with
  | nil => simp [ofList]
  | cons v vs ih =>
    change (cons a v (ofList (a + 1) vs)).read (a + k) = _
    rw [read_cons' fun c hc => (ofList_range vs (a + 1) c hc).1]
    cases k with
    | zero => simp
    | succ k =>
      rw [if_neg (by omega), show a + (k + 1) = a + 1 + k by omega, ih]
      simp

/-- Two memories in canonical form that read alike everywhere are equal. -/
theorem eq_of_read {m n : Memory} (hm : m.wf) (hn : n.wf) (h : ∀ k, m.read k = n.read k) : m = n := by
  induction m generalizing n with
  | nil =>
    cases n with
    | nil => rfl
    | cons c n =>
      have := h c.1
      rw [read_nil, show (c :: n) = (c.1, c.2) :: n from rfl, read_cons, if_pos rfl] at this
      exact absurd this.symm (hn.2 c (by simp))
  | cons c m ih =>
    obtain ⟨b, v⟩ := c
    obtain ⟨hm', hb⟩ := wf_tail hm
    cases n with
    | nil =>
      have := h b
      rw [read_nil, read_cons, if_pos rfl] at this
      exact absurd this (hm.2 (b, v) (by simp))
    | cons d n =>
      obtain ⟨b', v'⟩ := d
      obtain ⟨hn', hb'⟩ := wf_tail hn
      have e : b = b' := by
        rcases Nat.lt_trichotomy b b' with hlt | he | hlt
        · have := h b
          rw [read_cons, if_pos rfl, read_cons, if_neg (by omega), read_of_lt (fun c hc => by have := hb' c hc; dsimp at this; omega)] at this
          exact absurd this (hm.2 (b, v) (by simp))
        · exact he
        · have := h b'
          rw [read_cons, read_cons, if_neg (by omega), if_pos rfl, read_of_lt (fun c hc => by have := hb c hc; dsimp at this; omega)] at this
          exact absurd this.symm (hn.2 (b', v') (by simp))
      subst e
      have ev : v = v' := by
        have := h b
        rwa [read_cons, if_pos rfl, read_cons, if_pos rfl] at this
      subst ev
      congr 1
      apply ih hm' hn'
      intro k
      by_cases hk : k = b
      · subst hk
        rw [read_of_lt (fun c hc => hb c hc), read_of_lt (fun c hc => hb' c hc)]
      · have := h k
        rwa [read_cons, if_neg hk, read_cons, if_neg hk] at this

/-- A memory reads as blank from its size on. -/
theorem read_of_below {m : Memory} {size : Nat} (h : m.below size) {k : Nat} (hk : size ≤ k) : m.read k = blank := by
  induction m with
  | nil => rfl
  | cons c m ih =>
    obtain ⟨b, v⟩ := c
    have := h (b, v) (by simp)
    dsimp at this
    rw [read_cons, if_neg (by omega)]
    exact ih fun c hc => h c (by simp [hc])

end Sys2Proof.Machine.Memory
end

