-- ==== Sys2Proof/Laws/Bus.lean ====
section
/-! SUPPORT. Running the pieces of an instruction: what each primitive answers, the bus by address range, the stack, the fetch,
the trap entry and return. -/

namespace Sys2Proof.Machine

section Primitives

variable {α β : Type} (s : State)

@[simp] theorem pure_run (a : α) : (pure a : Bus α) s = .ok a s := rfl
@[simp] theorem look_run (f : State → α) : look f s = .ok (f s) s := rfl
@[simp] theorem update_run (f : State → State) : update f s = .ok () (f s) := rfl
@[simp] theorem access_run (f : State → α × State) : access f s = .ok (f s).1 (f s).2 := rfl
@[simp] theorem stop_run (c : Stop) : (stop c : Bus α) s = .error c s := rfl

/-- Run one piece, then the next on its value and state, unless it ended the instruction. -/
theorem bind_run (m : Bus α) (f : α → Bus β) :
    (m >>= f) s = match m s with
      | .ok a t => f a t
      | .error c t => .error c t := by
  simp only [bind, EStateM.bind]
  split <;> simp_all

theorem bind_ok {m : Bus α} {s t : State} {a : α} (h : m s = .ok a t) (f : α → Bus β) : (m >>= f) s = f a t := by
  rw [bind_run, h]

theorem bind_error {m : Bus α} {s t : State} {c : Stop} (h : m s = .error c t) (f : α → Bus β) :
    (m >>= f) s = .error c t := by
  rw [bind_run, h]

@[simp] theorem look_bind (g : State → α) (f : α → Bus β) : (look g >>= f) s = f (g s) s := by simp [bind_run]
@[simp] theorem update_bind (g : State → State) (f : Unit → Bus β) : (update g >>= f) s = f () (g s) := by simp [bind_run]
@[simp] theorem pure_bind' (a : α) (f : α → Bus β) : (pure a >>= f) s = f a s := by simp [bind_run]
@[simp] theorem stop_bind (c : Stop) (f : α → Bus β) : ((stop c : Bus α) >>= f) s = .error c s := by simp [bind_run]

@[simp] theorem map_run (f : α → β) (m : Bus α) :
    (f <$> m) s = match m s with
      | .ok a t => .ok (f a) t
      | .error c t => .error c t := by
  simp only [Functor.map, EStateM.map]
  split <;> simp_all

/-- What a completed sequence did: both pieces completed. -/
theorem bind_ok_inv {m : Bus α} {f : α → Bus β} {s u : State} {b : β} (h : (m >>= f) s = .ok b u) :
    ∃ a t, m s = .ok a t ∧ f a t = .ok b u := by
  rw [bind_run] at h
  split at h
  · exact ⟨_, _, ‹_›, h⟩
  · cases h

end Primitives

section Ranges

variable (a : Word) (v : Byte) (s : State)

theorem busRead_ram {a : Word} (h : a ≤ 0x1FFF) : busRead a s = .ok (s.ram.read (a.toNat % 0x800)) s := by
  rw [busRead, if_pos h]; rfl

theorem busRead_port {a : Word} (h : ¬ a ≤ 0x1FFF) (h' : a ≤ 0x3FFF) :
    busRead a s = .ok (s.portRead (a.toNat % 8)).1 (s.portRead (a.toNat % 8)).2 := by
  rw [busRead, if_neg h, if_pos h']; rfl

theorem busRead_mapper {a : Word} (h : 0x8000 ≤ a) : busRead a s = .ok (s.cart.mapperRead a) s := by
  have h1 : ¬ a ≤ 0x1FFF := by bv_omega
  have h2 : ¬ a ≤ 0x3FFF := by bv_omega
  have h3 : a ≠ 0x4014 := by bv_omega
  have h4 : a ≠ 0x4016 := by bv_omega
  have h5 : ¬ a ≤ 0x4017 := by bv_omega
  rw [busRead, if_neg h1, if_neg h2, if_neg h3, if_neg h4, if_neg h5, if_pos h]; rfl

theorem mapped_iff (a : Word) : mapped a = true ↔ a.toNat ≤ 0x4017 ∨ 0x8000 ≤ a.toNat := by
  simp [mapped, BitVec.le_def]

theorem busRead_unmapped {a : Word} (h : mapped a = false) : busRead a s = .error (.unmapped a .read) s := by
  have h0 : ¬ (a.toNat ≤ 0x4017 ∨ 0x8000 ≤ a.toNat) := by rw [← mapped_iff]; simp [h]
  have h1 : ¬ a ≤ 0x1FFF := by bv_omega
  have h2 : ¬ a ≤ 0x3FFF := by bv_omega
  have h3 : a ≠ 0x4014 := by bv_omega
  have h4 : a ≠ 0x4016 := by bv_omega
  have h5 : ¬ a ≤ 0x4017 := by bv_omega
  have h6 : ¬ 0x8000 ≤ a := by bv_omega
  rw [busRead, if_neg h1, if_neg h2, if_neg h3, if_neg h4, if_neg h5, if_neg h6]; rfl

/-- A read of a mapped address completes. -/
theorem busRead_mapped {a : Word} (h : mapped a = true) : ∃ v t, busRead a s = .ok v t := by
  rw [mapped_iff] at h
  unfold busRead
  repeat' split
  all_goals first
    | exact ⟨_, _, rfl⟩
    | (exfalso; bv_omega)

theorem busWrite_ram {a : Word} (h : a ≤ 0x1FFF) (v : Byte) : busWrite a v s = .ok () (s.ramWrite a v) := by
  rw [busWrite, if_pos h]; rfl

theorem busWrite_mapper {a : Word} (h : 0x8000 ≤ a) (v : Byte) : busWrite a v s = .ok () s := by
  have h1 : ¬ a ≤ 0x1FFF := by bv_omega
  have h2 : ¬ a ≤ 0x3FFF := by bv_omega
  have h3 : a ≠ 0x4014 := by bv_omega
  have h4 : a ≠ 0x4016 := by bv_omega
  have h5 : ¬ a ≤ 0x4017 := by bv_omega
  rw [busWrite, if_neg h1, if_neg h2, if_neg h3, if_neg h4, if_neg h5, if_pos h]; rfl

theorem busWrite_unmapped {a : Word} (h : mapped a = false) (v : Byte) :
    busWrite a v s = .error (.unmapped a .write) s := by
  have h0 : ¬ (a.toNat ≤ 0x4017 ∨ 0x8000 ≤ a.toNat) := by rw [← mapped_iff]; simp [h]
  have h1 : ¬ a ≤ 0x1FFF := by bv_omega
  have h2 : ¬ a ≤ 0x3FFF := by bv_omega
  have h3 : a ≠ 0x4014 := by bv_omega
  have h4 : a ≠ 0x4016 := by bv_omega
  have h5 : ¬ a ≤ 0x4017 := by bv_omega
  have h6 : ¬ 0x8000 ≤ a := by bv_omega
  rw [busWrite, if_neg h1, if_neg h2, if_neg h3, if_neg h4, if_neg h5, if_neg h6]; rfl

/-- Away from OAM-DMA, a write to a mapped address completes. -/
theorem busWrite_mapped {a : Word} (h : mapped a = true) (h' : a ≠ 0x4014) (v : Byte) : ∃ t, busWrite a v s = .ok () t := by
  rw [mapped_iff] at h
  unfold busWrite
  repeat' split
  all_goals first
    | exact ⟨_, rfl⟩
    | (exfalso; bv_omega)

end Ranges

section Stack

variable (s : State)

theorem stackAddr_toNat (sp : Byte) : (stackAddr sp).toNat = 0x100 + sp.toNat := by
  have := sp.isLt
  simp [stackAddr, zext16]
  omega

theorem stackAddr_ram (sp : Byte) : stackAddr sp ≤ 0x1FFF := by
  have := sp.isLt
  rw [BitVec.le_def, stackAddr_toNat]
  change 0x100 + sp.toNat ≤ 0x1FFF
  omega

/-- `push(v)` always completes: it stores in page $01 and decrements S (10_state.md R23). -/
@[simp] theorem push_run (v : Byte) : push v s = .ok () ((s.ramWrite (stackAddr s.sp) v).setS (s.sp - 1)) := by
  simp [push, bind_run, busWrite_ram _ (stackAddr_ram _)]

/-- `pull()` always completes: it increments S and reads page $01 (R23). -/
@[simp] theorem pull_run :
    pull s = .ok (s.ram.read (0x100 + (s.sp + 1).toNat)) (s.setS (s.sp + 1)) := by
  have := (s.sp + 1).isLt
  simp [pull, bind_run, busRead_ram _ (stackAddr_ram _), stackAddr_toNat, -BitVec.toNat_add]
  congr 1
  omega

theorem readVector_run {a : Word} (h : 0x8000 ≤ a) (h' : 0x8000 ≤ a + 1) :
    readVector a s = .ok (word (s.cart.mapperRead (a + 1)) (s.cart.mapperRead a)) s := by
  rw [readVector, bind_ok (busRead_mapper s h), bind_ok (busRead_mapper s h')]
  rfl

/-- Trap entry always completes (60_exceptions.md R364, R368). -/
theorem enterTrap_run {vector : Word} (h : 0x8000 ≤ vector) (h' : 0x8000 ≤ vector + 1) (status : Byte → Byte) :
    enterTrap vector status s = .ok ()
      (((((((((s.ramWrite (stackAddr s.sp) (hi s.pc)).setS (s.sp - 1)).ramWrite (stackAddr (s.sp - 1)) (lo s.pc)).setS
        (s.sp - 1 - 1)).ramWrite (stackAddr (s.sp - 1 - 1)) (status s.p)).setS (s.sp - 1 - 1 - 1)).setFlag .i true).setPc
          (word (s.cart.mapperRead (vector + 1)) (s.cart.mapperRead vector)))) := by
  simp [enterTrap, bind_run, readVector_run _ h h']

/-- NMI entry never stops (R364). -/
theorem nmiEntry_run : enterTrap 0xFFFA (fun p => (p &&& 0xEF) ||| 0x20) s = .ok () (nmiEntry s) := by
  unfold nmiEntry
  rw [enterTrap_run s (by decide) (by decide)]

end Stack

end Sys2Proof.Machine
end

