-- ==== Sys2Proof/Laws/Operands.lean ====
section
/-! SUPPORT. What resolving a mode answers, what the three operand shapes do, and every instruction as one `perform` of its lines. -/

namespace Sys2Proof.Machine

section Resolve

variable (s : State)

theorem zext16_ram (v : Byte) : zext16 v ≤ 0x1FFF := by
  have := v.isLt
  rw [BitVec.le_def, zext16_toNat]
  change v.toNat ≤ 0x1FFF
  omega

/-- A zero-page read is a read of internal RAM and changes nothing. -/
theorem busRead_zeropage (v : Byte) : busRead (zext16 v) s = .ok (s.ram.read v.toNat) s := by
  have := v.isLt
  rw [busRead_ram s (zext16_ram v), zext16_toNat]
  congr 2
  omega

/-- A zero-page pointer never faults and reading it changes nothing (40_addressing.md R142, R143). -/
theorem readPointer_run (p : Byte) :
    readPointer p s = .ok (word (s.ram.read (p + 1).toNat) (s.ram.read p.toNat)) s := by
  rw [readPointer, bind_ok (busRead_zeropage s p), bind_ok (busRead_zeropage s (p + 1))]
  rfl

theorem resolve_indirectX (b : Byte) :
    resolve (.indirectX b) s =
      .ok (.ea (word (s.ram.read (b + s.x + 1).toNat) (s.ram.read (b + s.x).toNat))) s := by
  simp only [resolve, look_bind]
  rw [bind_ok (readPointer_run s _)]
  rfl

theorem resolve_indirectY (b : Byte) :
    resolve (.indirectY b) s =
      .ok (.ea (word (s.ram.read (b + 1).toNat) (s.ram.read b.toNat) + zext16 s.y)) s := by
  simp only [resolve]
  rw [bind_ok (readPointer_run s _)]
  rfl

/-- Resolving an operand changes no state: its only bus accesses are zero-page reads. -/
theorem resolve_state {m : Mode} {l : Loc} {t : State} (h : resolve m s = .ok l t) : t = s := by
  cases m with
  | implied => cases h
  | relative => cases h
  | indirect => cases h
  | indirectX b => rw [resolve_indirectX] at h; cases h; rfl
  | indirectY b => rw [resolve_indirectY] at h; cases h; rfl
  | _ => cases h; rfl

/-- Every mode but implied, relative and indirect resolves, in every state. -/
theorem resolve_ok (m : Mode) (h : m.among [.implied, .relative, .indirect] = false) : ∃ l, resolve m s = .ok l s := by
  cases m <;> first
    | exact ⟨_, rfl⟩
    | exact ⟨_, resolve_indirectX s _⟩
    | exact ⟨_, resolve_indirectY s _⟩
    | (revert h; simp [Mode.among, Mode.addrMode])

/-- A memory mode resolves to an effective address. -/
theorem resolve_ea (m : Mode)
    (h : m.among [.zeropage, .zeropageX, .zeropageY, .absolute, .absoluteX, .absoluteY, .indirectX, .indirectY] = true) :
    ∃ a, resolve m s = .ok (.ea a) s := by
  cases m <;> first
    | exact ⟨_, rfl⟩
    | exact ⟨_, resolve_indirectX s _⟩
    | exact ⟨_, resolve_indirectY s _⟩
    | (revert h; simp [Mode.among, Mode.addrMode])

/-- No mode of a well-formed instruction with an operand resolves to an immediate that is written. -/
theorem resolve_loc {m : Mode} {l : Loc} {t : State} (h : resolve m s = .ok l t) :
    (l = .acc ∧ m = .accumulator) ∨ (∃ v, l = .imm v ∧ m = .immediate v) ∨ ∃ a, l = .ea a := by
  cases m with
  | accumulator => cases h; exact .inl ⟨rfl, rfl⟩
  | immediate v => cases h; exact .inr (.inl ⟨v, rfl, rfl⟩)
  | implied => cases h
  | relative => cases h
  | indirect => cases h
  | indirectX b => rw [resolve_indirectX] at h; cases h; exact .inr (.inr ⟨_, rfl⟩)
  | indirectY b => rw [resolve_indirectY] at h; cases h; exact .inr (.inr ⟨_, rfl⟩)
  | _ => cases h; exact .inr (.inr ⟨_, rfl⟩)

end Resolve

section Shapes

variable {s t : State} {m : Mode} {v : Byte} {a : Word}

theorem readOperand_ea (h : resolve m s = .ok (.ea a) s) : readOperand m s = busRead a s := by
  rw [readOperand, bind_ok h]
  rfl

@[simp] theorem readOperand_immediate : readOperand (.immediate v) s = .ok v s := rfl
@[simp] theorem readOperand_accumulator : readOperand .accumulator s = .ok s.a s := rfl

theorem reading_ok (h : readOperand m s = .ok v t) (effect : Byte → State → State) :
    reading m effect s = .ok () (effect v t) := by
  rw [reading, bind_ok h]
  rfl

theorem reading_error {c : Stop} (h : readOperand m s = .error c t) (effect : Byte → State → State) :
    reading m effect s = .error c t := by
  rw [reading, bind_error h]

theorem storing_ea (h : resolve m s = .ok (.ea a) s) (source : State → Byte) :
    storing m source s = busWrite a (source s) s := by
  rw [storing, bind_ok h]
  rfl

theorem modifying_accumulator {β : Type} (compute : Byte → State → Byte × β) (effect : Byte → β → State → State) :
    modifying .accumulator compute effect s =
      .ok () (effect (compute s.a s).1 (compute s.a s).2 (s.setA (compute s.a s).1)) := rfl

/-- A read-modify-write of memory: the read, the write of the result, then the effect on the CPU. -/
theorem modifying_ea {β : Type} {u : State} (h : resolve m s = .ok (.ea a) s) (hr : busRead a s = .ok v t)
    (compute : Byte → State → Byte × β) (effect : Byte → β → State → State)
    (hw : busWrite a (compute v t).1 t = .ok () u) :
    modifying m compute effect s = .ok () (effect (compute v t).1 (compute v t).2 u) := by
  rw [modifying, bind_ok h, bind_ok (show readOp (.ea a) s = .ok v t from hr), look_bind,
    bind_ok (show writeOp (compute v t).1 (.ea a) t = .ok () u from hw)]
  rfl

theorem modifying_ea_error {β : Type} {c : Stop} (h : resolve m s = .ok (.ea a) s) (hr : busRead a s = .error c t)
    (compute : Byte → State → Byte × β) (effect : Byte → β → State → State) :
    modifying m compute effect s = .error c t := by
  rw [modifying, bind_ok h, bind_error (show readOp (.ea a) s = .error c t from hr)]

end Shapes

section Perform

variable {i : Instr} {body : Bus Unit} {s t : State}

theorem perform_ok (hi : i.wf = true) (h : body s = .ok () t) : perform i body s = .next t := by
  simp [perform, hi, h]

theorem perform_error {c : Stop} (hi : i.wf = true) (h : body s = .error c t) :
    perform i body s = stopped c i.opcode (s.pc - BitVec.ofNat 16 i.fetchedBytes) t := by
  simp [perform, hi, h]

theorem perform_invalid (hi : i.wf = false) : perform i body s = .refused .invalidMode := by
  simp [perform, hi]

/-- An instruction answers a next state only in two ways: it ran to its end, or a fault was recorded. -/
theorem perform_next (h : perform i body s = .next t) :
    i.wf = true ∧ (body s = .ok () t ∨
      ∃ cls u o pc c, body s = .error c u ∧ t = u.recordFault cls o pc) := by
  unfold perform at h
  split at h
  · rename_i hi
    refine ⟨hi, ?_⟩
    split at h
    · rename_i hb
      cases h
      exact .inl hb
    · rename_i c u hb
      cases c <;> simp only [stopped, Host.Outcome.next.injEq, reduceCtorEq] at h
      · exact .inr ⟨_, _, _, _, _, hb, h.symm⟩
      · exact .inr ⟨_, _, _, _, _, hb, h.symm⟩
  · cases h

end Perform

/-- The lines of an instruction after its fetch, as its meaning writes them. -/
def body : Instr → Bus Unit
  | .lda m => reading m fun v s => (s.setA v).setNZ v
  | .ldx m => reading m fun v s => (s.setX v).setNZ v
  | .ldy m => reading m fun v s => (s.setY v).setNZ v
  | .sta m => storing m (·.a)
  | .stx m => storing m (·.x)
  | .sty m => storing m (·.y)
  | .tax => update fun s => (s.setX s.a).setNZ s.a
  | .tay => update fun s => (s.setY s.a).setNZ s.a
  | .txa => update fun s => (s.setA s.x).setNZ s.x
  | .tya => update fun s => (s.setA s.y).setNZ s.y
  | .tsx => update fun s => (s.setX s.sp).setNZ s.sp
  | .txs => update fun s => s.setS s.x
  | .adc m => reading m State.addToA
  | .sbc m => reading m State.subtractFromA
  | .and m => reading m (logicA (· &&& ·))
  | .ora m => reading m (logicA (· ||| ·))
  | .eor m => reading m (logicA (· ^^^ ·))
  | .bit m => reading m bitTest
  | .cmp m => reading m fun v s => s.compare s.a v
  | .cpx m => reading m fun v s => s.compare s.x v
  | .cpy m => reading m fun v s => s.compare s.y v
  | .inc m => modifying m (fun v _ => (v + 1, ())) fun r _ s => s.setNZ r
  | .dec m => modifying m (fun v _ => (v - 1, ())) fun r _ s => s.setNZ r
  | .inx => update fun s => (s.setX (s.x + 1)).setNZ (s.x + 1)
  | .iny => update fun s => (s.setY (s.y + 1)).setNZ (s.y + 1)
  | .dex => update fun s => (s.setX (s.x - 1)).setNZ (s.x - 1)
  | .dey => update fun s => (s.setY (s.y - 1)).setNZ (s.y - 1)
  | .asl m => modifying m (fun v _ => shl v) shiftFlags
  | .lsr m => modifying m (fun v _ => shr v) shiftFlags
  | .rol m => modifying m (fun v s => rol v (s.flag .c)) shiftFlags
  | .ror m => modifying m (fun v s => ror v (s.flag .c)) shiftFlags
  | .jmp m => do let target ← resolveTarget m; update (State.setPc target)
  | .jsr target => callSubroutine target
  | .rts => returnFromSubroutine
  | .rti => returnFromTrap
  | .brk => softwareInterrupt
  | .bpl d => branch .n false d
  | .bmi d => branch .n true d
  | .bvc d => branch .v false d
  | .bvs d => branch .v true d
  | .bcc d => branch .c false d
  | .bcs d => branch .c true d
  | .bne d => branch .z false d
  | .beq d => branch .z true d
  | .pha => do let a ← look (·.a); push a
  | .php => do let p ← look (·.p); push (p ||| 0x30)
  | .pla => do let v ← pull; update fun s => (s.setA v).setNZ v
  | .plp => do let p ← pull; update (State.setP p)
  | .clc => update (State.setFlag .c false)
  | .sec => update (State.setFlag .c true)
  | .cli => update (State.setFlag .i false)
  | .sei => update (State.setFlag .i true)
  | .cld => update (State.setFlag .d false)
  | .sed => update (State.setFlag .d true)
  | .clv => update (State.setFlag .v false)
  | .nop _ m => discardOperand m
  | .slo m => modifying m (fun v _ => shl v) fun r co s => logicA (· ||| ·) r (s.setFlag .c co)
  | .rla m => modifying m (fun v s => rol v (s.flag .c)) fun r co s => logicA (· &&& ·) r (s.setFlag .c co)
  | .sre m => modifying m (fun v _ => shr v) fun r co s => logicA (· ^^^ ·) r (s.setFlag .c co)
  | .rra m => modifying m (fun v s => ror v (s.flag .c)) fun r co s => (s.setFlag .c co).addToA r
  | .sax m => storing m fun s => s.a &&& s.x
  | .lax m => reading m fun v s => ((s.setA v).setX v).setNZ v
  | .dcp m => modifying m (fun v _ => (v - 1, ())) fun r _ s => s.compare s.a r
  | .isc m => modifying m (fun v _ => (v + 1, ())) fun r _ s => s.subtractFromA r
  | .anc _ v => reading (.immediate v) fun v s => (logicA (· &&& ·) v s).setFlag .c (bit (s.a &&& v) 7)
  | .alr v => reading (.immediate v) fun v s =>
      ((s.setA (shr (s.a &&& v)).1).setFlag .c (shr (s.a &&& v)).2).setNZ (shr (s.a &&& v)).1
  | .arr v => reading (.immediate v) fun v s =>
      (((s.setA (ror (s.a &&& v) (s.flag .c)).1).setNZ (ror (s.a &&& v) (s.flag .c)).1).setFlag .c
        (bit (ror (s.a &&& v) (s.flag .c)).1 6)).setFlag .v
          (bit (ror (s.a &&& v) (s.flag .c)).1 6 != bit (ror (s.a &&& v) (s.flag .c)).1 5)
  | .sbx v => reading (.immediate v) fun v s =>
      ((s.setFlag .c (decide (v ≤ s.a &&& s.x))).setX ((s.a &&& s.x) - v)).setNZ ((s.a &&& s.x) - v)
  | .usbc v => reading (.immediate v) State.subtractFromA
  | .jam _ | .ane | .lxa | .sha _ | .shx | .shy | .tas | .las => stop .illegalOpcode

/-- Every instruction's meaning is one `perform` of its lines. -/
theorem exec_eq (i : Instr) (s : State) : exec i s = perform i (body i) s := by
  cases i <;> rfl

theorem exec_ok {i : Instr} {s t : State} (hi : i.wf = true) (h : body i s = .ok () t) : exec i s = .next t := by
  rw [exec_eq, perform_ok hi h]

theorem exec_error {i : Instr} {s t : State} {c : Stop} (hi : i.wf = true) (h : body i s = .error c t) :
    exec i s = stopped c i.opcode (s.pc - BitVec.ofNat 16 i.fetchedBytes) t := by
  rw [exec_eq, perform_error hi h]

/-- A term that is no instruction is refused by name, in every state. -/
theorem exec_invalid {i : Instr} (hi : i.wf = false) (s : State) : exec i s = .refused .invalidMode := by
  rw [exec_eq, perform_invalid hi]

end Sys2Proof.Machine
end

