-- ==== Sys2Proof/Laws/Keeps.lean ====
section
/-! SUPPORT. Relations between the state before and after a piece of an instruction, whether it ran to its end or was ended: how a
reflexive and transitive relation passes from the bus and the register updates to every instruction. -/

namespace Sys2Proof.Machine

/-- The state a piece leaves, completed or ended. -/
def after {α : Type} : EStateM.Result Stop State α → State
  | .ok _ t => t
  | .error _ t => t

@[simp] theorem after_ok {α : Type} (a : α) (t : State) : after (.ok a t : EStateM.Result Stop State α) = t := rfl
@[simp] theorem after_error {α : Type} (c : Stop) (t : State) : after (.error c t : EStateM.Result Stop State α) = t := rfl

/-- Every run of a piece leaves a state related to the one it began in. -/
def Keeps {α : Type} (R : State → State → Prop) (m : Bus α) : Prop := ∀ s, R s (after (m s))

/-- A relation that composes along a run. -/
structure Frame (R : State → State → Prop) : Prop where
  refl : ∀ s, R s s
  trans : ∀ s t u, R s t → R t u → R s u

section Combinators

variable {α β : Type} {R : State → State → Prop}

theorem Keeps.ok {m : Bus α} (h : Keeps R m) {s t : State} {a : α} (hm : m s = .ok a t) : R s t := by
  have := h s
  rwa [hm] at this

theorem Keeps.error {m : Bus α} (h : Keeps R m) {s t : State} {c : Stop} (hm : m s = .error c t) : R s t := by
  have := h s
  rwa [hm] at this

theorem Keeps.pure (F : Frame R) (a : α) : Keeps R (pure a : Bus α) := F.refl
theorem Keeps.stop (F : Frame R) (c : Stop) : Keeps R (stop c : Bus α) := F.refl
theorem Keeps.look (F : Frame R) (f : State → α) : Keeps R (look f) := F.refl
theorem Keeps.update {f : State → State} (h : ∀ s, R s (f s)) : Keeps R (update f) := h
theorem Keeps.access {f : State → α × State} (h : ∀ s, R s (f s).2) : Keeps R (access f) := h

theorem Keeps.bind (F : Frame R) {m : Bus α} {f : α → Bus β} (hm : Keeps R m) (hf : ∀ a, Keeps R (f a)) :
    Keeps R (m >>= f) := by
  intro s
  rw [bind_run]
  have := hm s
  revert this
  cases m s with
  | ok a t => exact fun h => F.trans s t _ h (hf a t)
  | error c t => exact fun h => h

end Combinators

/-- Only CPU registers differ, and bit 5 of P is not lost (10_state.md R20, R26). -/
structure CpuOnly (s t : State) : Prop where
  rest : t = { s with a := t.a, x := t.x, y := t.y, sp := t.sp, pc := t.pc, p := t.p }
  reserved : getFlag .r s.p = true → getFlag .r t.p = true

section CpuUpdates

variable (s : State)

theorem reserved_putFlag {f : Flag} (hf : f ≠ .r) (b : Bool) (p : Byte) : getFlag .r (putFlag f b p) = getFlag .r p := by
  rw [getFlag_putFlag, if_neg hf.symm]

theorem CpuOnly.refl : CpuOnly s s := ⟨rfl, id⟩
theorem CpuOnly.trans {s t u : State} (h : CpuOnly s t) (h' : CpuOnly t u) : CpuOnly s u :=
  ⟨by rw [h'.rest, h.rest], fun hr => h'.reserved (h.reserved hr)⟩

theorem cpuOnly_setA (v : Byte) : CpuOnly s (s.setA v) := ⟨rfl, id⟩
theorem cpuOnly_setX (v : Byte) : CpuOnly s (s.setX v) := ⟨rfl, id⟩
theorem cpuOnly_setY (v : Byte) : CpuOnly s (s.setY v) := ⟨rfl, id⟩
theorem cpuOnly_setS (v : Byte) : CpuOnly s (s.setS v) := ⟨rfl, id⟩
theorem cpuOnly_setPc (w : Word) : CpuOnly s (s.setPc w) := ⟨rfl, id⟩
theorem cpuOnly_setP (v : Byte) : CpuOnly s (s.setP v) := ⟨rfl, fun _ => by simp [State.setP, getFlag_or]; right; decide⟩
theorem cpuOnly_setFlag {f : Flag} (hf : f ≠ .r) (b : Bool) : CpuOnly s (s.setFlag f b) :=
  ⟨rfl, fun h => by rw [State.setFlag, reserved_putFlag hf, h]⟩
theorem cpuOnly_setNZ (v : Byte) : CpuOnly s (s.setNZ v) :=
  (cpuOnly_setFlag s (by decide) _).trans (cpuOnly_setFlag _ (by decide) _)
theorem cpuOnly_addToA (v : Byte) : CpuOnly s (s.addToA v) :=
  (((cpuOnly_setFlag s (by decide) _).trans (cpuOnly_setFlag _ (by decide) _)).trans (cpuOnly_setA _ _)).trans
    (cpuOnly_setNZ _ _)
theorem cpuOnly_subtractFromA (v : Byte) : CpuOnly s (s.subtractFromA v) := cpuOnly_addToA s _
theorem cpuOnly_compare (r v : Byte) : CpuOnly s (s.compare r v) :=
  ((cpuOnly_setFlag s (by decide) _).trans (cpuOnly_setFlag _ (by decide) _)).trans (cpuOnly_setFlag _ (by decide) _)
theorem cpuOnly_logicA (f : Byte → Byte → Byte) (v : Byte) : CpuOnly s (logicA f v s) :=
  (cpuOnly_setA s _).trans (cpuOnly_setNZ _ _)
theorem cpuOnly_bitTest (v : Byte) : CpuOnly s (bitTest v s) :=
  ((cpuOnly_setFlag s (by decide) _).trans (cpuOnly_setFlag _ (by decide) _)).trans (cpuOnly_setFlag _ (by decide) _)
theorem cpuOnly_shiftFlags (v : Byte) (c : Bool) : CpuOnly s (shiftFlags v c s) :=
  (cpuOnly_setFlag s (by decide) _).trans (cpuOnly_setNZ _ _)

theorem cpuOnly_carry_logicA (f : Byte → Byte → Byte) (r : Byte) (c : Bool) :
    CpuOnly s (logicA f r (s.setFlag .c c)) :=
  (cpuOnly_setFlag s (by decide) c).trans (cpuOnly_logicA _ f r)

theorem cpuOnly_carry_addToA (r : Byte) (c : Bool) : CpuOnly s ((s.setFlag .c c).addToA r) :=
  (cpuOnly_setFlag s (by decide) c).trans (cpuOnly_addToA _ r)

end CpuUpdates

/-- A relation every register update and every bus access respects. -/
structure BusFrame (R : State → State → Prop) : Prop extends Frame R where
  cpu : ∀ s t, CpuOnly s t → R s t
  read : ∀ a, Keeps R (busRead a)
  write : ∀ a v, Keeps R (busWrite a v)

section Instructions

variable {R : State → State → Prop} (F : BusFrame R)

include F

theorem BusFrame.update {f : State → State} (h : ∀ s, CpuOnly s (f s)) : Keeps R (Machine.update f) :=
  fun s => F.cpu s _ (h s)

theorem BusFrame.resolve (m : Mode) : Keeps R (Machine.resolve m) := by
  intro s
  cases h : Machine.resolve m s with
  | ok l t => rw [resolve_state s h]; exact F.refl s
  | error c t =>
    cases m with
    | implied => cases h; exact F.refl s
    | relative => cases h; exact F.refl s
    | indirect => cases h; exact F.refl s
    | indirectX b => rw [resolve_indirectX] at h; cases h
    | indirectY b => rw [resolve_indirectY] at h; cases h
    | _ => cases h

theorem BusFrame.readOp (l : Loc) : Keeps R (Machine.readOp l) := by
  cases l with
  | acc => exact .look F.toFrame _
  | imm v => exact .pure F.toFrame _
  | ea a => exact F.read a

theorem BusFrame.writeOp (v : Byte) (l : Loc) : Keeps R (Machine.writeOp v l) := by
  cases l with
  | acc => exact F.update fun s => cpuOnly_setA s v
  | imm w => exact .stop F.toFrame _
  | ea a => exact F.write a v

theorem BusFrame.readOperand (m : Mode) : Keeps R (Machine.readOperand m) :=
  .bind F.toFrame (F.resolve m) F.readOp

theorem BusFrame.reading (m : Mode) {effect : Byte → State → State} (h : ∀ v s, CpuOnly s (effect v s)) :
    Keeps R (Machine.reading m effect) :=
  .bind F.toFrame (F.readOperand m) fun v => F.update (h v)

theorem BusFrame.storing (m : Mode) (source : State → Byte) : Keeps R (Machine.storing m source) :=
  .bind F.toFrame (F.resolve m) fun l => .bind F.toFrame (.look F.toFrame _) fun _ => F.writeOp _ l

theorem BusFrame.modifying {β : Type} (m : Mode) (compute : Byte → State → Byte × β)
    {effect : Byte → β → State → State} (h : ∀ r b s, CpuOnly s (effect r b s)) :
    Keeps R (Machine.modifying m compute effect) :=
  .bind F.toFrame (F.resolve m) fun l => .bind F.toFrame (F.readOp l) fun _ =>
    .bind F.toFrame (.look F.toFrame _) fun r => .bind F.toFrame (F.writeOp r.1 l) fun _ => F.update (h r.1 r.2)

theorem BusFrame.push (v : Byte) : Keeps R (Machine.push v) :=
  .bind F.toFrame (.look F.toFrame _) fun _ => .bind F.toFrame (F.write _ _) fun _ => F.update fun s => cpuOnly_setS s _

theorem BusFrame.pull : Keeps R Machine.pull :=
  .bind F.toFrame (.look F.toFrame _) fun _ => .bind F.toFrame (F.update fun s => cpuOnly_setS s _) fun _ => F.read _

theorem BusFrame.fetch8 : Keeps R Machine.fetch8 :=
  .bind F.toFrame (.look F.toFrame _) fun a => .bind F.toFrame (F.read a) fun b =>
    .bind F.toFrame (F.update fun s => cpuOnly_setPc s _) fun _ => .pure F.toFrame b

theorem BusFrame.readVector (a : Word) : Keeps R (Machine.readVector a) :=
  .bind F.toFrame (F.read _) fun _ => .bind F.toFrame (F.read _) fun _ => .pure F.toFrame _

theorem BusFrame.enterTrap (vector : Word) (status : Byte → Byte) : Keeps R (Machine.enterTrap vector status) :=
  .bind F.toFrame (.look F.toFrame _) fun _ => .bind F.toFrame (F.push _) fun _ => .bind F.toFrame (F.push _) fun _ =>
    .bind F.toFrame (.look F.toFrame _) fun _ => .bind F.toFrame (F.push _) fun _ =>
      .bind F.toFrame (F.update fun s => cpuOnly_setFlag s (by decide) _) fun _ =>
        .bind F.toFrame (F.readVector _) fun _ => F.update fun s => cpuOnly_setPc s _

theorem BusFrame.nmiEntry (s : State) : R s (Machine.nmiEntry s) :=
  (F.enterTrap _ _).ok (nmiEntry_run s)

theorem BusFrame.returnFromTrap : Keeps R Machine.returnFromTrap :=
  .bind F.toFrame F.pull fun _ => .bind F.toFrame (F.update fun s => cpuOnly_setP s _) fun _ =>
    .bind F.toFrame F.pull fun _ => .bind F.toFrame F.pull fun _ => F.update fun s => cpuOnly_setPc s _

theorem BusFrame.branch (f : Flag) (b : Bool) (d : Byte) : Keeps R (Machine.branch f b d) := by
  refine F.update fun s => ?_
  split
  · exact cpuOnly_setPc s _
  · exact .refl s

theorem BusFrame.resolveTarget (m : Mode) : Keeps R (Machine.resolveTarget m) := by
  cases m with
  | absolute w => exact .pure F.toFrame w
  | indirect p => exact .bind F.toFrame (F.read _) fun _ => .bind F.toFrame (F.read _) fun _ => .pure F.toFrame _
  | _ => exact .stop F.toFrame _

theorem BusFrame.discardOperand (m : Mode) : Keeps R (Machine.discardOperand m) := by
  cases m with
  | implied => exact .pure F.toFrame _
  | _ => exact F.reading _ fun _ s => .refl s

theorem BusFrame.anc (op v : Byte) : Keeps R (Machine.body (.anc op v)) :=
  F.reading _ fun _ s => (cpuOnly_logicA s _ _).trans (cpuOnly_setFlag _ (by decide) _)

theorem BusFrame.alr (v : Byte) : Keeps R (Machine.body (.alr v)) :=
  F.reading _ fun _ s => ((cpuOnly_setA s _).trans (cpuOnly_setFlag _ (by decide) _)).trans (cpuOnly_setNZ _ _)

theorem BusFrame.arr (v : Byte) : Keeps R (Machine.body (.arr v)) :=
  F.reading _ fun _ s => (((cpuOnly_setA s _).trans (cpuOnly_setNZ _ _)).trans (cpuOnly_setFlag _ (by decide) _)).trans
    (cpuOnly_setFlag _ (by decide) _)

theorem BusFrame.sbx (v : Byte) : Keeps R (Machine.body (.sbx v)) :=
  F.reading _ fun _ s => ((cpuOnly_setFlag s (by decide) _).trans (cpuOnly_setX _ _)).trans (cpuOnly_setNZ _ _)

theorem BusFrame.combo (m : Mode) (compute : Byte → State → Byte × Bool) (f : Byte → Byte → Byte) :
    Keeps R (Machine.modifying m compute fun r c s => logicA f r (s.setFlag .c c)) :=
  F.modifying m _ fun r c s => cpuOnly_carry_logicA s f r c

theorem BusFrame.rra (m : Mode) : Keeps R (Machine.body (.rra m)) :=
  F.modifying m (fun v s => ror v (s.flag .c)) (effect := fun r c s => (s.setFlag .c c).addToA r)
    fun r c s => cpuOnly_carry_addToA s r c

theorem BusFrame.dcp (m : Mode) : Keeps R (Machine.body (.dcp m)) :=
  F.modifying m (fun v _ => (v - 1, ())) (effect := fun r _ s => s.compare s.a r) fun r _ s => cpuOnly_compare s s.a r

theorem BusFrame.isc (m : Mode) : Keeps R (Machine.body (.isc m)) :=
  F.modifying m (fun v _ => (v + 1, ())) (effect := fun r _ s => s.subtractFromA r) fun r _ s => cpuOnly_subtractFromA s r

theorem BusFrame.lax (m : Mode) : Keeps R (Machine.body (.lax m)) :=
  F.reading m fun _ s => ((cpuOnly_setA s _).trans (cpuOnly_setX _ _)).trans (cpuOnly_setNZ _ _)

theorem BusFrame.shifts (m : Mode) (compute : Byte → State → Byte × Bool) :
    Keeps R (Machine.modifying m compute shiftFlags) := F.modifying m _ fun r c s => cpuOnly_shiftFlags s r c

theorem BusFrame.jsr (w : Word) : Keeps R (Machine.body (.jsr w)) :=
  .bind F.toFrame (.look F.toFrame _) fun _ => .bind F.toFrame (F.push _) fun _ =>
    .bind F.toFrame (F.push _) fun _ => F.update fun s => cpuOnly_setPc s w

theorem BusFrame.rts : Keeps R (Machine.body .rts) :=
  .bind F.toFrame F.pull fun _ => .bind F.toFrame F.pull fun _ => F.update fun s => cpuOnly_setPc s _

theorem BusFrame.brk : Keeps R (Machine.body .brk) :=
  .bind F.toFrame (.look F.toFrame _) fun _ => .bind F.toFrame (F.update fun s => cpuOnly_setPc s _) fun _ =>
    F.enterTrap _ _

theorem BusFrame.jmp (m : Mode) : Keeps R (Machine.body (.jmp m)) :=
  .bind F.toFrame (F.resolveTarget m) fun w => F.update fun s => cpuOnly_setPc s w

/-- Every instruction respects a relation that the bus and the register updates respect. -/
theorem BusFrame.body (i : Instr) : Keeps R (Machine.body i) := by
  have nz := cpuOnly_setNZ
  cases i with
  | lda m => exact F.reading m fun v s => (cpuOnly_setA s v).trans (nz _ v)
  | ldx m => exact F.reading m fun v s => (cpuOnly_setX s v).trans (nz _ v)
  | ldy m => exact F.reading m fun v s => (cpuOnly_setY s v).trans (nz _ v)
  | sta m | stx m | sty m | sax m => exact F.storing m _
  | tax | tsx | inx | dex => exact F.update fun s => (cpuOnly_setX s _).trans (nz _ _)
  | tay | iny | dey => exact F.update fun s => (cpuOnly_setY s _).trans (nz _ _)
  | txa | tya => exact F.update fun s => (cpuOnly_setA s _).trans (nz _ _)
  | txs => exact F.update fun s => cpuOnly_setS s _
  | adc m => exact F.reading m fun v s => cpuOnly_addToA s v
  | sbc m => exact F.reading m fun v s => cpuOnly_subtractFromA s v
  | and m | ora m | eor m => exact F.reading m fun v s => cpuOnly_logicA s _ v
  | bit m => exact F.reading m fun v s => cpuOnly_bitTest s v
  | cmp m | cpx m | cpy m => exact F.reading m fun v s => cpuOnly_compare s _ v
  | inc m | dec m => exact F.modifying m _ fun r _ s => nz s r
  | asl m | lsr m | rol m | ror m => exact F.shifts m _
  | jmp m => exact F.jmp m
  | jsr w => exact F.jsr w
  | rts => exact F.rts
  | rti => exact F.returnFromTrap
  | brk => exact F.brk
  | bpl d | bmi d | bvc d | bvs d | bcc d | bcs d | bne d | beq d => exact F.branch _ _ d
  | pha | php => exact .bind F.toFrame (.look F.toFrame _) fun _ => F.push _
  | pla => exact .bind F.toFrame F.pull fun v => F.update fun s => (cpuOnly_setA s v).trans (nz _ v)
  | plp => exact .bind F.toFrame F.pull fun v => F.update fun s => cpuOnly_setP s v
  | clc | sec | cli | sei | cld | sed | clv => exact F.update fun s => cpuOnly_setFlag s (by decide) _
  | nop op m => exact F.discardOperand m
  | slo m | rla m | sre m => exact F.combo m _ _
  | rra m => exact F.rra m
  | lax m => exact F.lax m
  | dcp m => exact F.dcp m
  | isc m => exact F.isc m
  | anc op v => exact F.anc op v
  | alr v => exact F.alr v
  | arr v => exact F.arr v
  | sbx v => exact F.sbx v
  | usbc v => exact F.reading _ fun v s => cpuOnly_subtractFromA s v
  | jam _ | ane | lxa | sha _ | shx | shy | tas | las => exact .stop F.toFrame _

end Instructions

end Sys2Proof.Machine
end

