-- ==== Sys2Proof/Laws/Devices.lean ====
section
/-! SUPPORT. The devices behind the bus: what a relation must respect for the whole bus to respect it, and the two relations most
claims need, that no instruction touches what lies outside the program's reach and that every instruction keeps the invariant. -/

namespace Sys2Proof.Machine

section Bus

variable {R : State → State → Prop} (F : Frame R)

include F

/-- A bus read is a port read, a joystick read or no change at all. -/
theorem busRead_keeps (port : ∀ n s, R s (State.portRead n s).2) (joy : ∀ s, R s (joyRead s).2) (a : Word) :
    Keeps R (busRead a) := by
  unfold busRead
  repeat' split
  · exact .look F _
  · exact .access (port _)
  · exact .look F _
  · exact .access joy
  · exact .look F _
  · exact .look F _
  · exact .stop F _

theorem oamDmaFrom_keeps (read : ∀ a, Keeps R (busRead a))
    (oam : ∀ s k b, k < 256 → R s { s with oam := s.oam.write k b }) (v : Byte) (n : Nat) : Keeps R (oamDmaFrom v n) := by
  induction n with
  | zero => exact .pure F _
  | succ n ih =>
    exact .bind F (read _) fun b => .bind F (.update fun s => oam s _ b (Nat.mod_lt _ (by decide))) fun _ => ih

/-- A bus write is a RAM write, a port write, an OAM-DMA, a strobe or no change at all. -/
theorem busWrite_keeps (read : ∀ a, Keeps R (busRead a)) (ram : ∀ a v s, R s (State.ramWrite a v s))
    (port : ∀ n v s, R s (State.portWrite n v s)) (oam : ∀ s k b, k < 256 → R s { s with oam := s.oam.write k b })
    (joy : ∀ s, R s (joyWrite s)) (a : Word) (v : Byte) : Keeps R (busWrite a v) := by
  unfold busWrite
  repeat' split
  · exact .update (ram a v)
  · exact .update (port _ v)
  · exact oamDmaFrom_keeps F read oam v 256
  · exact .update joy
  · exact .update F.refl
  · exact .update F.refl
  · exact .stop F _

end Bus

/-- No instruction, completed or ended, changes these: the cartridge, the frame buffer, the host's and the orchestrator's state. -/
structure Outside (s t : State) : Prop extends SameOutside s t where
  phase : t.phase = s.phase
  fault : t.fault = s.fault

theorem outside_portRead (n : Nat) (s : State) : Outside s (State.portRead n s).2 := by
  unfold State.portRead
  split
  · exact ⟨⟨rfl, rfl, rfl, rfl, rfl⟩, rfl, rfl⟩
  · exact ⟨⟨rfl, rfl, rfl, rfl, rfl⟩, rfl, rfl⟩
  · unfold State.dataRead
    dsimp only
    split <;> exact ⟨⟨rfl, rfl, rfl, rfl, rfl⟩, rfl, rfl⟩
  · exact ⟨⟨rfl, rfl, rfl, rfl, rfl⟩, rfl, rfl⟩

theorem outside_joyRead (s : State) : Outside s (joyRead s).2 := by
  unfold joyRead
  split <;> exact ⟨⟨rfl, rfl, rfl, rfl, rfl⟩, rfl, rfl⟩

theorem outside_ppuWrite (a : Nat) (v : Byte) (s : State) : Outside s (s.ppuWrite a v) := by
  unfold State.ppuWrite
  dsimp only
  repeat' split
  all_goals exact ⟨⟨rfl, rfl, rfl, rfl, rfl⟩, rfl, rfl⟩

theorem Outside.refl (s : State) : Outside s s := ⟨⟨rfl, rfl, rfl, rfl, rfl⟩, rfl, rfl⟩

theorem Outside.trans {s t u : State} (h : Outside s t) (h' : Outside t u) : Outside s u :=
  ⟨⟨h'.cart.trans h.cart, h'.fb.trans h.fb, h'.buttons.trans h.buttons, h'.calls.trans h.calls,
    h'.notifications.trans h.notifications⟩, h'.phase.trans h.phase, h'.fault.trans h.fault⟩

theorem outside_portWrite (n : Nat) (v : Byte) (s : State) : Outside s (s.portWrite n v) := by
  unfold State.portWrite
  split
  · exact ⟨⟨rfl, rfl, rfl, rfl, rfl⟩, rfl, rfl⟩
  · exact ⟨⟨rfl, rfl, rfl, rfl, rfl⟩, rfl, rfl⟩
  · exact ⟨⟨rfl, rfl, rfl, rfl, rfl⟩, rfl, rfl⟩
  · exact ⟨⟨rfl, rfl, rfl, rfl, rfl⟩, rfl, rfl⟩
  · unfold State.scrollWrite; split <;> exact ⟨⟨rfl, rfl, rfl, rfl, rfl⟩, rfl, rfl⟩
  · unfold State.addrWrite; split <;> exact ⟨⟨rfl, rfl, rfl, rfl, rfl⟩, rfl, rfl⟩
  · exact (outside_ppuWrite _ v s).trans ⟨⟨rfl, rfl, rfl, rfl, rfl⟩, rfl, rfl⟩
  · exact ⟨⟨rfl, rfl, rfl, rfl, rfl⟩, rfl, rfl⟩

theorem outside_frame : BusFrame Outside := by
  have F : Frame Outside := ⟨Outside.refl, fun _ _ _ => Outside.trans⟩
  have read : ∀ a, Keeps Outside (busRead a) := busRead_keeps F outside_portRead outside_joyRead
  exact { F with
    cpu := fun s t h => by rw [h.rest]; exact ⟨⟨rfl, rfl, rfl, rfl, rfl⟩, rfl, rfl⟩
    read := read
    write := busWrite_keeps F read (fun _ _ _ => ⟨⟨rfl, rfl, rfl, rfl, rfl⟩, rfl, rfl⟩) outside_portWrite (fun _ _ _ _ => ⟨⟨rfl, rfl, rfl, rfl, rfl⟩, rfl, rfl⟩)
      fun _ => ⟨⟨rfl, rfl, rfl, rfl, rfl⟩, rfl, rfl⟩ }

/-! The invariant. -/

/-- A piece of an instruction keeps the invariant. -/
def KeepsInv (s t : State) : Prop := Inv s → Inv t

theorem keepsInv_frame : Frame KeepsInv := ⟨fun _ => id, fun _ _ _ h h' i => h' (h i)⟩

theorem status_and (v : Byte) (h : v = 0x00 ∨ v = 0x80) : v &&& 0x7F = 0x00 := by
  rcases h with rfl | rfl <;> rfl

theorem palIndex_own (a : Nat) : ownPaletteSlot (palIndex a) = true := by
  have hb : a % 32 < 32 := Nat.mod_lt _ (by decide)
  unfold palIndex
  dsimp only
  generalize a % 32 = i at *
  interval_cases i <;> decide

theorem inv_statusRead {s : State} (h : Inv s) : Inv s.statusRead.2 :=
  have hz := status_and s.status h.status
  { h with status := .inl hz, vblank := .inl hz }

theorem inv_dataRead {s : State} (h : Inv s) : Inv s.dataRead.2 := by
  unfold State.dataRead
  dsimp only
  split <;> exact { h with }

theorem inv_portRead (n : Nat) (s : State) (h : Inv s) : Inv (State.portRead n s).2 := by
  unfold State.portRead
  split
  · exact inv_statusRead h
  · exact h
  · exact inv_dataRead h
  · exact h

theorem inv_joyRead (s : State) (h : Inv s) : Inv (joyRead s).2 := by
  unfold joyRead
  split
  · exact { h with }
  · exact h

theorem inv_ramWrite (a : Word) (v : Byte) (s : State) (h : Inv s) : Inv (s.ramWrite a v) :=
  { h with ram := ⟨Memory.write_wf h.ram.1 _ v, Memory.write_below h.ram.2 (Nat.mod_lt _ (by decide)) v⟩ }

theorem inv_oamWrite (s : State) (k : Nat) (b : Byte) (hk : k < 256) (h : Inv s) :
    Inv { s with oam := s.oam.write k b } :=
  { h with oam := ⟨Memory.write_wf h.oam.1 _ b, Memory.write_below h.oam.2 hk b⟩ }

theorem inv_ppuWrite (a : Nat) (v : Byte) (s : State) (h : Inv s) : Inv (s.ppuWrite a v) := by
  have hb : a % 0x4000 < 0x4000 := Nat.mod_lt _ (by decide)
  unfold State.ppuWrite
  dsimp only
  split
  · split
    · exact { h with chrRam := ⟨Memory.write_wf h.chrRam.1 _ v, Memory.write_below h.chrRam.2 (by omega) v⟩ }
    · exact h
  · split
    · exact { h with vram := ⟨Memory.write_wf h.vram.1 _ v, Memory.write_below h.vram.2 (by omega) v⟩ }
    · refine { h with pal := ⟨Memory.write_wf h.pal.1 _ v, fun c hc => ?_⟩ }
      rcases Memory.mem_write hc with rfl | hc
      · exact palIndex_own _
      · exact h.pal.2 c hc

theorem inv_portWrite (n : Nat) (v : Byte) (s : State) (h : Inv s) : Inv (s.portWrite n v) := by
  unfold State.portWrite
  split
  · exact { h with }
  · exact { h with }
  · exact { h with }
  · exact { inv_oamWrite s _ v s.oamaddr.isLt h with }
  · unfold State.scrollWrite; split <;> exact { h with }
  · unfold State.addrWrite; split <;> exact { h with }
  · exact { inv_ppuWrite s.vaddr.toNat v s h with }
  · exact h

theorem inv_cpuOnly {s t : State} (c : CpuOnly s t) (h : Inv s) : Inv t := by
  have hr := c.reserved h.reserved
  rw [c.rest]
  exact { h with reserved := hr }

theorem inv_frame : BusFrame KeepsInv := by
  have read : ∀ a, Keeps KeepsInv (busRead a) := busRead_keeps keepsInv_frame inv_portRead inv_joyRead
  exact { keepsInv_frame with
    cpu := fun _ _ c => inv_cpuOnly c
    read := read
    write := busWrite_keeps keepsInv_frame read inv_ramWrite inv_portWrite inv_oamWrite fun _ h => { h with } }

end Sys2Proof.Machine
end

