-- ==== Sys2Proof/Laws/Access.lean ====
section
/-! SUPPORT. How a relation that the bus respects, though not every register update, passes to one instruction: each shape of
instruction asks only that its own effect respects it. -/

namespace Sys2Proof.Machine

/-- A relation every bus access respects. -/
structure AccessFrame (R : State → State → Prop) : Prop extends Frame R where
  read : ∀ a, Keeps R (busRead a)
  write : ∀ a v, Keeps R (busWrite a v)

section Shapes

variable {R : State → State → Prop} (F : AccessFrame R)

include F

theorem AccessFrame.resolve (m : Mode) : Keeps R (Machine.resolve m) := by
  intro s
  cases h : Machine.resolve m s with
  | ok l t => rw [resolve_state s h]; exact F.refl s
  | error c t =>
    cases m with
    | implied => cases h; exact F.refl s
    | relative => cases h; exact F.refl s
    | indirect => cases h; exact F.refl s
    | indirectX b => rw [resolve_indirectX] at h; cases h
    | indirectY b => rw [resolve_indirectY] at h; cases h
    | _ => cases h

theorem AccessFrame.readOp (l : Loc) : Keeps R (Machine.readOp l) := by
  cases l with
  | acc => exact .look F.toFrame _
  | imm v => exact .pure F.toFrame _
  | ea a => exact F.read a

theorem AccessFrame.readOperand (m : Mode) : Keeps R (Machine.readOperand m) :=
  .bind F.toFrame (F.resolve m) F.readOp

theorem AccessFrame.reading (m : Mode) {effect : Byte → State → State} (h : ∀ v s, R s (effect v s)) :
    Keeps R (Machine.reading m effect) :=
  .bind F.toFrame (F.readOperand m) fun v => .update (h v)

theorem AccessFrame.writeOp {m : Mode} {l : Loc} {s t : State} (hl : Machine.resolve m s = .ok l t)
    (h : m ≠ .accumulator) (v : Byte) : Keeps R (Machine.writeOp v l) := by
  rcases resolve_loc s hl with ⟨rfl, hm⟩ | ⟨w, rfl, -⟩ | ⟨a, rfl⟩
  · exact absurd hm h
  · exact .stop F.toFrame _
  · exact F.write a v

theorem AccessFrame.storing {m : Mode} (h : m ≠ .accumulator) (source : State → Byte) :
    Keeps R (Machine.storing m source) := by
  intro s
  rw [Machine.storing, bind_run]
  have hr := F.resolve m s
  cases hl : Machine.resolve m s with
  | ok l t =>
    rw [hl] at hr
    exact F.trans _ _ _ hr (Keeps.bind F.toFrame (.look F.toFrame source) (fun v => F.writeOp hl h v) t)
  | error c t => rwa [hl] at hr

theorem AccessFrame.modifying {β : Type} {m : Mode} (hm : m ≠ .accumulator) (compute : Byte → State → Byte × β)
    {effect : Byte → β → State → State} (h : ∀ r b s, R s (effect r b s)) :
    Keeps R (Machine.modifying m compute effect) := by
  intro s
  rw [Machine.modifying, bind_run]
  have hr := F.resolve m s
  cases hl : Machine.resolve m s with
  | ok l t =>
    rw [hl] at hr
    have hk : Keeps R (Machine.readOp l >>= fun v => look (compute v) >>= fun r => Machine.writeOp r.1 l >>= fun _ =>
        update (effect r.1 r.2)) :=
      .bind F.toFrame (F.readOp l) fun v => .bind F.toFrame (.look F.toFrame _) fun r =>
        .bind F.toFrame (F.writeOp hl hm r.1) fun _ => .update (h r.1 r.2)
    exact F.trans _ _ _ hr (hk t)
  | error c t => rwa [hl] at hr

theorem AccessFrame.push (hs : ∀ v s, R s (State.setS v s)) (v : Byte) : Keeps R (Machine.push v) :=
  .bind F.toFrame (.look F.toFrame _) fun _ => .bind F.toFrame (F.write _ _) fun _ => .update fun s => hs _ s

theorem AccessFrame.pull (hs : ∀ v s, R s (State.setS v s)) : Keeps R Machine.pull :=
  .bind F.toFrame (.look F.toFrame _) fun _ => .bind F.toFrame (.update fun s => hs _ s) fun _ => F.read _

theorem AccessFrame.resolveTarget (m : Mode) : Keeps R (Machine.resolveTarget m) := by
  cases m with
  | absolute w => exact .pure F.toFrame w
  | indirect p => exact .bind F.toFrame (F.read _) fun _ => .bind F.toFrame (F.read _) fun _ => .pure F.toFrame _
  | _ => exact .stop F.toFrame _

end Shapes

end Sys2Proof.Machine
end

