-- ==== Sys2Proof/Laws/Decode.lean ====
section
/-! SUPPORT. What each cell of the decode table makes, and how the decoder reads a cell. -/

namespace Sys2Proof

open Machine

theorem decode_entry0 {op : Byte} (h : (decodeEntry op).operands = 0) (rest : List Byte) :
    decode (op :: rest) = .ok ((decodeEntry op).make 0 0, rest) := by
  unfold decode
  simp only [h]

theorem decode_entry1 {op : Byte} (h : (decodeEntry op).operands = 1) (b : Byte) (rest : List Byte) :
    decode (op :: b :: rest) = .ok ((decodeEntry op).make b 0, rest) := by
  unfold decode
  simp only [h]

theorem decode_entry2 {op : Byte} (h : (decodeEntry op).operands = 2) (b c : Byte) (rest : List Byte) :
    decode (op :: b :: c :: rest) = .ok ((decodeEntry op).make b c, rest) := by
  unfold decode
  simp only [h]

/-- A cell whose operand bytes are not all there is refused. -/
theorem decode_truncated {op : Byte} (h2 : (decodeEntry op).operands ≤ 2) {operands : List Byte}
    (h : operands.length < (decodeEntry op).operands) : decode (op :: operands) = .error (.truncated op) := by
  unfold decode
  dsimp only
  generalize (decodeEntry op).operands = n at *
  interval_cases n
  · omega
  · obtain rfl : operands = [] := List.length_eq_zero_iff.mp (by omega)
    rfl
  · rcases operands with _ | ⟨b, _ | ⟨c, t⟩⟩
    · rfl
    · rfl
    · simp at h

/-- A cell with a word operand reads its two bytes low byte first. -/
theorem decode_word {op : Byte} (h : (decodeEntry op).operands = 2) (k : Word → Instr)
    (hk : (decodeEntry op).make = fun b c => k (word c b)) (w : Word) (rest : List Byte) :
    decode (op :: lo w :: hi w :: rest) = .ok (k w, rest) := by
  rw [decode_entry2 h, hk]
  simp

/-- A cell makes well-formed instructions that encode back to the opcode and the operand bytes, of its mode and class. -/
structure CellOk (op : Byte) (e : Entry) : Prop where
  wf : ∀ b c, (e.make b c).wf = true
  encode : ∀ b c, encode (e.make b c) = op :: [b, c].take e.operands
  atMostTwo : e.operands ≤ 2
  mode : ∀ b c, (e.make b c).addrMode = e.mode
  faults : ∀ b c, faulting (e.make b c) = e.faults

theorem cell_ok_nat (n : Nat) (hn : n < 256) : CellOk (BitVec.ofNat 8 n) (decodeEntry (BitVec.ofNat 8 n)) := by
  interval_cases n <;> first
    | exact ⟨fun _ _ => rfl, fun _ _ => rfl, by decide, fun _ _ => rfl, fun _ _ => rfl⟩
    | exact ⟨fun _ _ => rfl, fun b c => by
        change _ :: [lo (word c b), hi (word c b)] = _ :: [b, c]
        rw [lo_word, hi_word]
        rfl, by decide, fun _ _ => rfl, fun _ _ => rfl⟩

theorem cell_ok (op : Byte) : CellOk op (decodeEntry op) := by
  simpa using cell_ok_nat op.toNat op.isLt

theorem entry_faults_nat (n : Nat) (hn : n < 256) :
    (decodeEntry (BitVec.ofNat 8 n)).faults = decide (BitVec.ofNat 8 n ∈ faultingOpcodes) := by
  interval_cases n <;> rfl

/-- A cell is of the faulting class exactly for the 20 faulting opcode values. -/
theorem entry_faults (op : Byte) : (decodeEntry op).faults = decide (op ∈ faultingOpcodes) := by
  simpa using entry_faults_nat op.toNat op.isLt

/-- A cell's instruction is the opcode byte and the operand bytes the cell fetches. -/
theorem CellOk.fetchedBytes {op : Byte} {e : Entry} (k : CellOk op e) (b c : Byte) :
    (e.make b c).fetchedBytes = 1 + e.operands := by
  rw [Instr.fetchedBytes, Instr.length, k.mode, k.faults, Entry.operands]
  split <;> rfl

/-- Every instruction has its opcode byte fetched. -/
theorem Instr.one_le_fetchedBytes (i : Instr) : 1 ≤ i.fetchedBytes := by
  rw [Instr.fetchedBytes, Instr.length]
  split <;> omega

/-- What a successful decoding read: the opcode's cell and as many operand bytes as it takes. -/
theorem decode_inv {bs : List Byte} {i : Instr} {rest : List Byte} (h : decode bs = .ok (i, rest)) :
    ∃ op operands b c, bs = op :: operands ++ rest ∧ i = (decodeEntry op).make b c ∧
      operands = [b, c].take (decodeEntry op).operands ∧ operands.length = (decodeEntry op).operands := by
  unfold decode at h
  split at h
  · cases h
  · rename_i op tail
    split at h
    · rename_i h0
      simp only [Except.ok.injEq, Prod.mk.injEq] at h
      obtain ⟨rfl, rfl⟩ := h
      exact ⟨op, [], 0, 0, rfl, rfl, by rw [h0]; rfl, h0.symm⟩
    · rename_i h1
      simp only [Except.ok.injEq, Prod.mk.injEq] at h
      obtain ⟨rfl, rfl⟩ := h
      exact ⟨op, [_], _, 0, rfl, rfl, by rw [h1]; rfl, h1.symm⟩
    · rename_i h2
      simp only [Except.ok.injEq, Prod.mk.injEq] at h
      obtain ⟨rfl, rfl⟩ := h
      exact ⟨op, [_, _], _, _, rfl, rfl, by rw [h2]; rfl, h2.symm⟩
    · cases h

end Sys2Proof
end

