-- ==== Sys2Proof/Laws/PerInstr.lean ====
section
/-! SUPPORT. Per-instruction families: one lemma per constructor of Instr. -/

namespace Sys2Proof.Laws

namespace Encoding

/-- What the encoder owes the rest of the model: it has an opcode exactly for the terms that are instructions, and then writes as
many bytes as execute() fetches (30_encoding.md R112, R118, R119; 60_exceptions.md R360). -/
def Statement (i : Instr) : Prop := i.opcode.isSome = i.wf ∧ (i.wf = true → (encode i).length = i.fetchedBytes)

theorem lda (m : Mode) : Statement (Instr.lda m) := by cases m <;> exact ⟨rfl, fun h => by first | rfl | cases h⟩
theorem ldx (m : Mode) : Statement (Instr.ldx m) := by cases m <;> exact ⟨rfl, fun h => by first | rfl | cases h⟩
theorem ldy (m : Mode) : Statement (Instr.ldy m) := by cases m <;> exact ⟨rfl, fun h => by first | rfl | cases h⟩
theorem sta (m : Mode) : Statement (Instr.sta m) := by cases m <;> exact ⟨rfl, fun h => by first | rfl | cases h⟩
theorem stx (m : Mode) : Statement (Instr.stx m) := by cases m <;> exact ⟨rfl, fun h => by first | rfl | cases h⟩
theorem sty (m : Mode) : Statement (Instr.sty m) := by cases m <;> exact ⟨rfl, fun h => by first | rfl | cases h⟩
theorem tax : Statement .tax := ⟨rfl, fun _ => rfl⟩
theorem tay : Statement .tay := ⟨rfl, fun _ => rfl⟩
theorem txa : Statement .txa := ⟨rfl, fun _ => rfl⟩
theorem tya : Statement .tya := ⟨rfl, fun _ => rfl⟩
theorem tsx : Statement .tsx := ⟨rfl, fun _ => rfl⟩
theorem txs : Statement .txs := ⟨rfl, fun _ => rfl⟩
theorem adc (m : Mode) : Statement (Instr.adc m) := by cases m <;> exact ⟨rfl, fun h => by first | rfl | cases h⟩
theorem sbc (m : Mode) : Statement (Instr.sbc m) := by cases m <;> exact ⟨rfl, fun h => by first | rfl | cases h⟩
theorem and (m : Mode) : Statement (Instr.and m) := by cases m <;> exact ⟨rfl, fun h => by first | rfl | cases h⟩
theorem ora (m : Mode) : Statement (Instr.ora m) := by cases m <;> exact ⟨rfl, fun h => by first | rfl | cases h⟩
theorem eor (m : Mode) : Statement (Instr.eor m) := by cases m <;> exact ⟨rfl, fun h => by first | rfl | cases h⟩
theorem bit (m : Mode) : Statement (Instr.bit m) := by cases m <;> exact ⟨rfl, fun h => by first | rfl | cases h⟩
theorem cmp (m : Mode) : Statement (Instr.cmp m) := by cases m <;> exact ⟨rfl, fun h => by first | rfl | cases h⟩
theorem cpx (m : Mode) : Statement (Instr.cpx m) := by cases m <;> exact ⟨rfl, fun h => by first | rfl | cases h⟩
theorem cpy (m : Mode) : Statement (Instr.cpy m) := by cases m <;> exact ⟨rfl, fun h => by first | rfl | cases h⟩
theorem inc (m : Mode) : Statement (Instr.inc m) := by cases m <;> exact ⟨rfl, fun h => by first | rfl | cases h⟩
theorem dec (m : Mode) : Statement (Instr.dec m) := by cases m <;> exact ⟨rfl, fun h => by first | rfl | cases h⟩
theorem inx : Statement .inx := ⟨rfl, fun _ => rfl⟩
theorem iny : Statement .iny := ⟨rfl, fun _ => rfl⟩
theorem dex : Statement .dex := ⟨rfl, fun _ => rfl⟩
theorem dey : Statement .dey := ⟨rfl, fun _ => rfl⟩
theorem asl (m : Mode) : Statement (Instr.asl m) := by cases m <;> exact ⟨rfl, fun h => by first | rfl | cases h⟩
theorem lsr (m : Mode) : Statement (Instr.lsr m) := by cases m <;> exact ⟨rfl, fun h => by first | rfl | cases h⟩
theorem rol (m : Mode) : Statement (Instr.rol m) := by cases m <;> exact ⟨rfl, fun h => by first | rfl | cases h⟩
theorem ror (m : Mode) : Statement (Instr.ror m) := by cases m <;> exact ⟨rfl, fun h => by first | rfl | cases h⟩
theorem jmp (m : Mode) : Statement (Instr.jmp m) := by cases m <;> exact ⟨rfl, fun h => by first | rfl | cases h⟩
theorem jsr (target : Word) : Statement (Instr.jsr target) := ⟨rfl, fun _ => rfl⟩
theorem rts : Statement .rts := ⟨rfl, fun _ => rfl⟩
theorem rti : Statement .rti := ⟨rfl, fun _ => rfl⟩
theorem brk : Statement .brk := ⟨rfl, fun _ => rfl⟩
theorem bpl (d : Byte) : Statement (Instr.bpl d) := ⟨rfl, fun _ => rfl⟩
theorem bmi (d : Byte) : Statement (Instr.bmi d) := ⟨rfl, fun _ => rfl⟩
theorem bvc (d : Byte) : Statement (Instr.bvc d) := ⟨rfl, fun _ => rfl⟩
theorem bvs (d : Byte) : Statement (Instr.bvs d) := ⟨rfl, fun _ => rfl⟩
theorem bcc (d : Byte) : Statement (Instr.bcc d) := ⟨rfl, fun _ => rfl⟩
theorem bcs (d : Byte) : Statement (Instr.bcs d) := ⟨rfl, fun _ => rfl⟩
theorem bne (d : Byte) : Statement (Instr.bne d) := ⟨rfl, fun _ => rfl⟩
theorem beq (d : Byte) : Statement (Instr.beq d) := ⟨rfl, fun _ => rfl⟩
theorem pha : Statement .pha := ⟨rfl, fun _ => rfl⟩
theorem php : Statement .php := ⟨rfl, fun _ => rfl⟩
theorem pla : Statement .pla := ⟨rfl, fun _ => rfl⟩
theorem plp : Statement .plp := ⟨rfl, fun _ => rfl⟩
theorem clc : Statement .clc := ⟨rfl, fun _ => rfl⟩
theorem sec : Statement .sec := ⟨rfl, fun _ => rfl⟩
theorem cli : Statement .cli := ⟨rfl, fun _ => rfl⟩
theorem sei : Statement .sei := ⟨rfl, fun _ => rfl⟩
theorem cld : Statement .cld := ⟨rfl, fun _ => rfl⟩
theorem sed : Statement .sed := ⟨rfl, fun _ => rfl⟩
theorem clv : Statement .clv := ⟨rfl, fun _ => rfl⟩
theorem nop (op : Byte) (m : Mode) : Statement (Instr.nop op m) := by
  by_cases h : (nopOpcodes m.addrMode).contains op = true <;> cases m <;>
    simp_all [Statement, Instr.opcode, Instr.wf, encode, Instr.fetchedBytes, faulting, Instr.length, Instr.addrMode, Instr.mode, Mode.bytes, Mode.addrMode, AddrMode.operandBytes]
theorem slo (m : Mode) : Statement (Instr.slo m) := by cases m <;> exact ⟨rfl, fun h => by first | rfl | cases h⟩
theorem rla (m : Mode) : Statement (Instr.rla m) := by cases m <;> exact ⟨rfl, fun h => by first | rfl | cases h⟩
theorem sre (m : Mode) : Statement (Instr.sre m) := by cases m <;> exact ⟨rfl, fun h => by first | rfl | cases h⟩
theorem rra (m : Mode) : Statement (Instr.rra m) := by cases m <;> exact ⟨rfl, fun h => by first | rfl | cases h⟩
theorem sax (m : Mode) : Statement (Instr.sax m) := by cases m <;> exact ⟨rfl, fun h => by first | rfl | cases h⟩
theorem lax (m : Mode) : Statement (Instr.lax m) := by cases m <;> exact ⟨rfl, fun h => by first | rfl | cases h⟩
theorem dcp (m : Mode) : Statement (Instr.dcp m) := by cases m <;> exact ⟨rfl, fun h => by first | rfl | cases h⟩
theorem isc (m : Mode) : Statement (Instr.isc m) := by cases m <;> exact ⟨rfl, fun h => by first | rfl | cases h⟩
theorem anc (op : Byte) (v : Byte) : Statement (Instr.anc op v) := by
  by_cases h : ancOpcodes.contains op = true <;>
    simp_all [Statement, Instr.opcode, Instr.wf, encode, Instr.fetchedBytes, faulting, Instr.length, Instr.addrMode, Instr.mode, Mode.bytes, Mode.addrMode, AddrMode.operandBytes]
theorem alr (v : Byte) : Statement (Instr.alr v) := ⟨rfl, fun _ => rfl⟩
theorem arr (v : Byte) : Statement (Instr.arr v) := ⟨rfl, fun _ => rfl⟩
theorem sbx (v : Byte) : Statement (Instr.sbx v) := ⟨rfl, fun _ => rfl⟩
theorem usbc (v : Byte) : Statement (Instr.usbc v) := ⟨rfl, fun _ => rfl⟩
theorem jam (op : Byte) : Statement (Instr.jam op) := by
  by_cases h : jamOpcodes.contains op = true <;>
    simp_all [Statement, Instr.opcode, Instr.wf, encode, Instr.fetchedBytes, faulting, Instr.mode, Mode.bytes]
theorem ane : Statement .ane := ⟨rfl, fun _ => rfl⟩
theorem lxa : Statement .lxa := ⟨rfl, fun _ => rfl⟩
theorem sha (op : Byte) : Statement (Instr.sha op) := by
  by_cases h : shaOpcodes.contains op = true <;>
    simp_all [Statement, Instr.opcode, Instr.wf, encode, Instr.fetchedBytes, faulting, Instr.mode, Mode.bytes]
theorem shx : Statement .shx := ⟨rfl, fun _ => rfl⟩
theorem shy : Statement .shy := ⟨rfl, fun _ => rfl⟩
theorem tas : Statement .tas := ⟨rfl, fun _ => rfl⟩
theorem las : Statement .las := ⟨rfl, fun _ => rfl⟩

end Encoding

/-- The family holds of every instruction term. -/
theorem encoding (i : Instr) : Encoding.Statement i := by
  cases i
  · exact Encoding.lda _
  · exact Encoding.ldx _
  · exact Encoding.ldy _
  · exact Encoding.sta _
  · exact Encoding.stx _
  · exact Encoding.sty _
  · exact Encoding.tax
  · exact Encoding.tay
  · exact Encoding.txa
  · exact Encoding.tya
  · exact Encoding.tsx
  · exact Encoding.txs
  · exact Encoding.adc _
  · exact Encoding.sbc _
  · exact Encoding.and _
  · exact Encoding.ora _
  · exact Encoding.eor _
  · exact Encoding.bit _
  · exact Encoding.cmp _
  · exact Encoding.cpx _
  · exact Encoding.cpy _
  · exact Encoding.inc _
  · exact Encoding.dec _
  · exact Encoding.inx
  · exact Encoding.iny
  · exact Encoding.dex
  · exact Encoding.dey
  · exact Encoding.asl _
  · exact Encoding.lsr _
  · exact Encoding.rol _
  · exact Encoding.ror _
  · exact Encoding.jmp _
  · exact Encoding.jsr _
  · exact Encoding.rts
  · exact Encoding.rti
  · exact Encoding.brk
  · exact Encoding.bpl _
  · exact Encoding.bmi _
  · exact Encoding.bvc _
  · exact Encoding.bvs _
  · exact Encoding.bcc _
  · exact Encoding.bcs _
  · exact Encoding.bne _
  · exact Encoding.beq _
  · exact Encoding.pha
  · exact Encoding.php
  · exact Encoding.pla
  · exact Encoding.plp
  · exact Encoding.clc
  · exact Encoding.sec
  · exact Encoding.cli
  · exact Encoding.sei
  · exact Encoding.cld
  · exact Encoding.sed
  · exact Encoding.clv
  · exact Encoding.nop _ _
  · exact Encoding.slo _
  · exact Encoding.rla _
  · exact Encoding.sre _
  · exact Encoding.rra _
  · exact Encoding.sax _
  · exact Encoding.lax _
  · exact Encoding.dcp _
  · exact Encoding.isc _
  · exact Encoding.anc _ _
  · exact Encoding.alr _
  · exact Encoding.arr _
  · exact Encoding.sbx _
  · exact Encoding.usbc _
  · exact Encoding.jam _
  · exact Encoding.ane
  · exact Encoding.lxa
  · exact Encoding.sha _
  · exact Encoding.shx
  · exact Encoding.shy
  · exact Encoding.tas
  · exact Encoding.las

end Sys2Proof.Laws
end

