-- ==== Sys2Proof/Laws/Ppu.lean ====
section
/-! SUPPORT. The PPU's ports and memory by case: which port an address is, what each range of the PPU address space reads and
stores, and when two palette addresses are one byte (50_ppu.md R310 to R327). -/

namespace Sys2Proof.Machine

variable (s : State)

theorem isPort_iff (n : Nat) (a : Word) :
    isPort n a = true ↔ 0x2000 ≤ a.toNat ∧ a.toNat ≤ 0x3FFF ∧ a.toNat % 8 = n := by
  simp [isPort, and_assoc]

theorem busRead_isPort {n : Nat} {a : Word} (h : isPort n a = true) :
    busRead a s = .ok (s.portRead n).1 (s.portRead n).2 := by
  rw [isPort_iff] at h
  rw [busRead_port s (by bv_omega) (by bv_omega), h.2.2]

theorem busWrite_isPort {n : Nat} {a : Word} (h : isPort n a = true) (v : Byte) :
    busWrite a v s = .ok () (s.portWrite n v) := by
  rw [isPort_iff] at h
  rw [busWrite, if_neg (by bv_omega), if_pos (by bv_omega), h.2.2]
  rfl

/-- A read of a byte that a fetch may read: internal RAM or program-ROM. -/
theorem busRead_stored {a : Word} (h : holdsCode a = true) : busRead a s = .ok (storedByte s a) s := by
  unfold storedByte
  simp only [holdsCode, Bool.or_eq_true, decide_eq_true_eq] at h
  split
  · rw [busRead_ram s (by bv_omega)]
  · rw [busRead_mapper s (by bv_omega)]

/-- What the joystick register's read changes. -/
theorem joyRead_frame : (joyRead s).2 = { s with jidx := (joyRead s).2.jidx } := by
  unfold joyRead
  split <;> rfl

theorem advanceVaddr_toNat :
    s.advanceVaddr.vaddr.toNat = (s.vaddr.toNat + if bit s.ctrl 2 then 32 else 1) % 0x4000 := by
  simp only [State.advanceVaddr, BitVec.toNat_add]
  cases bit s.ctrl 2 <;> rfl

/-- What a read of the data port changes (R326). -/
theorem dataRead_frame : s.dataRead.2 = { s with rdbuf := s.dataRead.2.rdbuf, vaddr := s.dataRead.2.vaddr } := by
  simp only [State.dataRead]
  split <;> simp only [State.advanceVaddr]

section Memory

variable {s} {a : Nat}

theorem ppuRead_chr (h : a % 0x4000 < 0x2000) : s.ppuRead a = s.chrRead (a % 0x4000) := by
  rw [State.ppuRead]; rw [if_pos (by omega)]

theorem ppuRead_vram (h : 0x2000 ≤ a % 0x4000) (h' : a % 0x4000 < 0x3F00) :
    s.ppuRead a = s.vram.read (a % 0x4000 - 0x2000) := by
  rw [State.ppuRead]; rw [if_neg (by omega), if_pos (by omega)]

theorem ppuRead_pal (h : 0x3F00 ≤ a % 0x4000) : s.ppuRead a = s.pal.read (palIndex (a % 0x4000)) := by
  rw [State.ppuRead]; rw [if_neg (by omega), if_neg (by omega)]

theorem ppuWrite_rom (h : a % 0x4000 < 0x2000) (hc : s.cart.chrBanks ≠ 0) (v : Byte) : s.ppuWrite a v = s := by
  rw [State.ppuWrite]; rw [if_pos (by omega), if_neg hc]

theorem ppuWrite_chr (h : a % 0x4000 < 0x2000) (hc : s.cart.chrBanks = 0) (v : Byte) :
    s.ppuWrite a v = { s with chrRam := s.chrRam.write (a % 0x4000) v } := by
  rw [State.ppuWrite]; rw [if_pos (by omega), if_pos hc]

theorem ppuWrite_vram (h : 0x2000 ≤ a % 0x4000) (h' : a % 0x4000 < 0x3F00) (v : Byte) :
    s.ppuWrite a v = { s with vram := s.vram.write (a % 0x4000 - 0x2000) v } := by
  rw [State.ppuWrite]; rw [if_neg (by omega), if_pos (by omega)]

theorem ppuWrite_pal (h : 0x3F00 ≤ a % 0x4000) (v : Byte) :
    s.ppuWrite a v = { s with pal := s.pal.write (palIndex (a % 0x4000)) v } := by
  rw [State.ppuWrite]; rw [if_neg (by omega), if_neg (by omega)]

/-- A PPU write changes only the three writable memories. -/
theorem ppuWrite_frame (v : Byte) :
    s.ppuWrite a v = { s with
      chrRam := (s.ppuWrite a v).chrRam, vram := (s.ppuWrite a v).vram, pal := (s.ppuWrite a v).pal } := by
  by_cases h : a % 0x4000 < 0x2000
  · by_cases hc : s.cart.chrBanks = 0
    · rw [ppuWrite_chr h hc]
    · rw [ppuWrite_rom h hc]
  · by_cases h' : a % 0x4000 < 0x3F00
    · rw [ppuWrite_vram (by omega) h']
    · rw [ppuWrite_pal (by omega)]

/-- Two palette addresses are the same byte exactly where they agree modulo 32, or are mirrors of one another (R312). -/
theorem palIndex_eq_iff (a b : Nat) :
    palIndex a = palIndex b ↔ a % 32 = b % 32 ∨ (a % 4 = 0 ∧ b % 4 = 0 ∧ a % 16 = b % 16) := by
  have h1 : ∀ a, palIndex a = palIndex (a % 32) := fun a => by simp [palIndex]
  have key : ∀ i < 32, ∀ j < 32, palIndex i = palIndex j ↔ i = j ∨ (i % 4 = 0 ∧ j % 4 = 0 ∧ i % 16 = j % 16) := by decide
  rw [h1 a, h1 b, key _ (Nat.mod_lt _ (by decide)) _ (Nat.mod_lt _ (by decide))]
  omega

end Memory

end Sys2Proof.Machine
end

