-- ==== Sys2Proof/Laws/Stack.lean ====
section
/-! SUPPORT. The stack operations in closed form: a push, the subroutine call and return, trap entry and return, each as one record
update (10_state.md R23; 44_control.md R211 to R216; 60_exceptions.md R364, R368). -/

namespace Sys2Proof.Machine

variable (s : State)

theorem stackAddr_slot (sp : Byte) : (stackAddr sp).toNat % 0x800 = 0x100 + sp.toNat := by
  have := sp.isLt
  rw [stackAddr_toNat]
  omega

theorem sp_down_two (sp : Byte) : sp - 1 - 1 = sp - 2 := by bv_omega
theorem sp_down_three (sp : Byte) : sp - 2 - 1 = sp - 3 := by bv_omega
theorem sp_up_two (sp : Byte) : sp + 1 + 1 = sp + 2 := by bv_omega
theorem sp_up_three (sp : Byte) : sp + 2 + 1 = sp + 3 := by bv_omega

theorem push_eq (v : Byte) :
    push v s = .ok () { s with ram := s.ram.write (0x100 + s.sp.toNat) v, sp := s.sp - 1 } := by
  rw [push_run]
  simp only [State.ramWrite, State.setS, stackAddr_slot]

theorem callSubroutine_eq (w : Word) :
    callSubroutine w s = .ok () { s with
      ram := (s.ram.write (0x100 + s.sp.toNat) (hi (s.pc - 1))).write (0x100 + (s.sp - 1).toNat) (lo (s.pc - 1))
      sp := s.sp - 2, pc := w } := by
  simp only [callSubroutine, bind_run, look_run, push_run, update_run]
  simp only [State.ramWrite, State.setS, State.setPc, stackAddr_slot, sp_down_two]

theorem returnFromSubroutine_eq :
    returnFromSubroutine s = .ok () { s with
      sp := s.sp + 2
      pc := word (s.ram.read (0x100 + (s.sp + 2).toNat)) (s.ram.read (0x100 + (s.sp + 1).toNat)) + 1 } := by
  simp only [returnFromSubroutine, bind_run, pull_run, update_run]
  simp only [State.setS, State.setPc, sp_up_two]

theorem returnFromTrap_eq :
    returnFromTrap s = .ok () { s with
      sp := s.sp + 3
      p := (s.ram.read (0x100 + (s.sp + 1).toNat) ||| 0x20) &&& 0xEF
      pc := word (s.ram.read (0x100 + (s.sp + 3).toNat)) (s.ram.read (0x100 + (s.sp + 2).toNat)) } := by
  simp only [returnFromTrap, bind_run, pull_run, update_run]
  simp only [State.setS, State.setPc, State.setP, sp_up_two, sp_up_three]
  congr 2
  generalize s.ram.read _ = v
  revert v
  decide

theorem enterTrap_eq {vector : Word} (h : 0x8000 ≤ vector) (h' : 0x8000 ≤ vector + 1) (f : Byte → Byte) :
    enterTrap vector f s = .ok () { s with
      ram := ((s.ram.write (0x100 + s.sp.toNat) (hi s.pc)).write (0x100 + (s.sp - 1).toNat) (lo s.pc)).write
        (0x100 + (s.sp - 2).toNat) (f s.p)
      sp := s.sp - 3, p := putFlag .i true s.p
      pc := word (s.cart.mapperRead (vector + 1)) (s.cart.mapperRead vector) } := by
  rw [enterTrap_run s h h']
  simp only [State.ramWrite, State.setS, State.setPc, State.setFlag, stackAddr_slot, sp_down_two, sp_down_three]

theorem softwareInterrupt_eq :
    softwareInterrupt s = .ok () { s with
      ram := ((s.ram.write (0x100 + s.sp.toNat) (hi (s.pc + 1))).write (0x100 + (s.sp - 1).toNat) (lo (s.pc + 1))).write
        (0x100 + (s.sp - 2).toNat) (s.p ||| 0x30)
      sp := s.sp - 3, p := putFlag .i true s.p
      pc := word (s.cart.mapperRead 0xFFFF) (s.cart.mapperRead 0xFFFE) } := by
  simp only [softwareInterrupt, look_bind, update_bind]
  rw [enterTrap_eq _ (by decide) (by decide)]
  rfl

/-- Two bytes pushed one after another are read back, and every other byte is as before. -/
theorem read_two_pushes {m : Memory} (h : m.wf) (sp x y : Byte) (k : Nat) :
    ((m.write (0x100 + sp.toNat) x).write (0x100 + (sp - 1).toNat) y).read k =
      if k = 0x100 + sp.toNat then x
      else if k = 0x100 + (sp - 1).toNat then y
      else m.read k := by
  rw [Memory.read_write (Memory.write_wf h _ _), Memory.read_write h]
  repeat' split
  all_goals first | rfl | (exfalso; bv_omega)

/-- Three bytes pushed one after another are read back, and every other byte is as before: the three slots differ, wraps
included. -/
theorem read_three_pushes {m : Memory} (h : m.wf) (sp x y z : Byte) (k : Nat) :
    (((m.write (0x100 + sp.toNat) x).write (0x100 + (sp - 1).toNat) y).write (0x100 + (sp - 2).toNat) z).read k =
      if k = 0x100 + sp.toNat then x
      else if k = 0x100 + (sp - 1).toNat then y
      else if k = 0x100 + (sp - 2).toNat then z
      else m.read k := by
  rw [Memory.read_write (Memory.write_wf (Memory.write_wf h _ _) _ _), Memory.read_write (Memory.write_wf h _ _),
    Memory.read_write h]
  repeat' split
  all_goals first | rfl | (exfalso; bv_omega)

end Sys2Proof.Machine
end

