-- ==== Sys2Proof/Laws/Step.lean ====
section
/-! SUPPORT. The fetch, execute() and the step of each phase. -/

namespace Sys2Proof.Machine

section Fetch

variable {s t : State} {b : Byte} {c : Stop}

theorem fetch8_ok (h : busRead s.pc s = .ok b t) : fetch8 s = .ok b (t.setPc (s.pc + 1)) := by
  rw [fetch8, look_bind, bind_ok h]
  rfl

theorem fetch8_error (h : busRead s.pc s = .error c t) : fetch8 s = .error c t := by
  rw [fetch8, look_bind, bind_error h]

/-- What a completed fetch did: one bus read at PC, and PC one on. -/
theorem fetch8_inv (h : fetch8 s = .ok b t) : ∃ u, busRead s.pc s = .ok b u ∧ t = u.setPc (s.pc + 1) := by
  cases hb : busRead s.pc s with
  | ok v u =>
    rw [fetch8_ok hb] at h
    cases h
    exact ⟨u, rfl, rfl⟩
  | error c u =>
    rw [fetch8_error hb] at h
    cases h

/-- A fetch at an address of internal RAM or program-ROM reads the stored byte and only moves PC. -/
theorem fetch8_stored (h : holdsCode s.pc = true) : fetch8 s = .ok (storedByte s s.pc) (s.setPc (s.pc + 1)) := by
  by_cases hr : s.pc ≤ 0x1FFF
  · have hn : s.pc.toNat ≤ 0x1FFF := by simpa [BitVec.le_def] using hr
    rw [fetch8_ok (busRead_ram s hr), storedByte, if_pos hn]
  · have hm : 0x8000 ≤ s.pc := by
      simp only [holdsCode, Bool.or_eq_true, decide_eq_true_eq] at h
      exact h.resolve_left hr
    have hn : ¬ s.pc.toNat ≤ 0x1FFF := by simpa [BitVec.le_def] using hr
    rw [fetch8_ok (busRead_mapper s hm), storedByte, if_neg hn]

theorem fetch8_unmapped (h : mapped s.pc = false) : fetch8 s = .error (.unmapped s.pc .read) s :=
  fetch8_error (busRead_unmapped s h)

/-- A fetch that does not complete met an unmapped address. -/
theorem fetch8_error_inv (h : fetch8 s = .error c t) : c = .unmapped s.pc .read ∧ t = s ∧ mapped s.pc = false := by
  cases hm : mapped s.pc with
  | true =>
    obtain ⟨v, u, hb⟩ := busRead_mapped s hm
    rw [fetch8_ok hb] at h
    cases h
  | false =>
    rw [fetch8_unmapped hm] at h
    cases h
    exact ⟨rfl, rfl, rfl⟩

end Fetch

/-- The registers a bus read leaves alone: all of the CPU's. -/
structure SameCpu (s t : State) : Prop where
  a : t.a = s.a
  x : t.x = s.x
  y : t.y = s.y
  sp : t.sp = s.sp
  pc : t.pc = s.pc
  p : t.p = s.p

theorem sameCpu_frame : Frame SameCpu :=
  ⟨fun _ => ⟨rfl, rfl, rfl, rfl, rfl, rfl⟩, fun _ _ _ h h' =>
    ⟨h'.a.trans h.a, h'.x.trans h.x, h'.y.trans h.y, h'.sp.trans h.sp, h'.pc.trans h.pc, h'.p.trans h.p⟩⟩

/-- No bus read touches a CPU register. -/
theorem busRead_sameCpu (a : Word) : Keeps SameCpu (busRead a) := by
  refine busRead_keeps sameCpu_frame (fun n s => ?_) (fun s => ?_) a
  · unfold State.portRead
    split
    · exact ⟨rfl, rfl, rfl, rfl, rfl, rfl⟩
    · exact ⟨rfl, rfl, rfl, rfl, rfl, rfl⟩
    · unfold State.dataRead
      dsimp only
      split <;> exact ⟨rfl, rfl, rfl, rfl, rfl, rfl⟩
    · exact ⟨rfl, rfl, rfl, rfl, rfl, rfl⟩
  · unfold joyRead
    split <;> exact ⟨rfl, rfl, rfl, rfl, rfl, rfl⟩

/-- No bus write touches a CPU register, OAM-DMA included. -/
theorem busWrite_sameCpu (a : Word) (v : Byte) : Keeps SameCpu (busWrite a v) := by
  refine busWrite_keeps sameCpu_frame busRead_sameCpu (fun _ _ _ => ⟨rfl, rfl, rfl, rfl, rfl, rfl⟩) (fun n v s => ?_)
    (fun _ _ _ _ => ⟨rfl, rfl, rfl, rfl, rfl, rfl⟩) (fun _ => ⟨rfl, rfl, rfl, rfl, rfl, rfl⟩) a v
  unfold State.portWrite
  split
  · exact ⟨rfl, rfl, rfl, rfl, rfl, rfl⟩
  · exact ⟨rfl, rfl, rfl, rfl, rfl, rfl⟩
  · exact ⟨rfl, rfl, rfl, rfl, rfl, rfl⟩
  · exact ⟨rfl, rfl, rfl, rfl, rfl, rfl⟩
  · unfold State.scrollWrite; split <;> exact ⟨rfl, rfl, rfl, rfl, rfl, rfl⟩
  · unfold State.addrWrite; split <;> exact ⟨rfl, rfl, rfl, rfl, rfl, rfl⟩
  · unfold State.dataWrite State.ppuWrite
    dsimp only
    repeat' split
    all_goals exact ⟨rfl, rfl, rfl, rfl, rfl, rfl⟩
  · exact ⟨rfl, rfl, rfl, rfl, rfl, rfl⟩

/-! A well-formed instruction is never ended for its mode. -/

/-- A piece that is never ended for its mode, whatever state it starts from. -/
def ModeSound {α : Type} (m : Bus α) : Prop := ∀ s t, m s ≠ .error .invalidMode t

section Modes

variable {α β : Type}

theorem ModeSound.pure (a : α) : ModeSound (pure a : Bus α) := by intro s t h; cases h
theorem ModeSound.look (f : State → α) : ModeSound (look f) := by intro s t h; cases h
theorem ModeSound.update (f : State → State) : ModeSound (update f) := by intro s t h; cases h
theorem ModeSound.access (f : State → α × State) : ModeSound (access f) := by intro s t h; cases h
theorem ModeSound.stop {c : Stop} (hc : c ≠ .invalidMode) : ModeSound (stop c : Bus α) := by
  intro s t h
  cases h
  exact hc rfl

theorem ModeSound.bind {m : Bus α} {f : α → Bus β} (hm : ModeSound m) (hf : ∀ a, ModeSound (f a)) :
    ModeSound (m >>= f) := by
  intro s t h
  rw [bind_run] at h
  split at h
  · exact hf _ _ _ h
  · rename_i hs
    cases h
    exact hm _ _ hs

theorem ModeSound.busRead (a : Word) : ModeSound (busRead a) := by
  unfold Machine.busRead
  repeat' split
  · exact .look _
  · exact .access _
  · exact .look _
  · exact .access _
  · exact .look _
  · exact .look _
  · exact .stop (by simp)

theorem ModeSound.oamDmaFrom (v : Byte) (n : Nat) : ModeSound (oamDmaFrom v n) := by
  induction n with
  | zero => exact .pure _
  | succ n ih => exact .bind (.busRead _) fun _ => .bind (.update _) fun _ => ih

theorem ModeSound.busWrite (a : Word) (v : Byte) : ModeSound (busWrite a v) := by
  unfold Machine.busWrite
  repeat' split
  · exact .update _
  · exact .update _
  · exact .oamDmaFrom v 256
  · exact .update _
  · exact .update _
  · exact .update _
  · exact .stop (by simp)

theorem ModeSound.push (v : Byte) : ModeSound (push v) := by intro s t h; rw [push_run] at h; cases h
theorem ModeSound.pull : ModeSound pull := by intro s t h; rw [pull_run] at h; cases h

theorem ModeSound.readOp (l : Loc) : ModeSound (readOp l) := by
  cases l with
  | acc => exact .look _
  | imm v => exact .pure _
  | ea a => exact .busRead a

/-- The mode has an operand that can be read. -/
abbrev Mode.readable (m : Mode) : Prop := m.among [.implied, .relative, .indirect] = false

theorem ModeSound.resolve {m : Mode} (h : Mode.readable m) : ModeSound (resolve m) := by
  intro s t he
  obtain ⟨l, hl⟩ := resolve_ok s m h
  rw [hl] at he
  cases he

theorem ModeSound.reading {m : Mode} (h : Mode.readable m) (e : Byte → State → State) : ModeSound (reading m e) :=
  .bind (.bind (.resolve h) .readOp) fun _ => .update _

theorem ModeSound.writeOp {m : Mode} {l : Loc} {s t : State} (hl : Machine.resolve m s = .ok l t)
    (h : m.among [.immediate] = false) (v : Byte) : ModeSound (writeOp v l) := by
  rcases resolve_loc s hl with ⟨rfl, -⟩ | ⟨v, -, rfl⟩ | ⟨a, rfl⟩
  · exact .update _
  · exact absurd h.symm Bool.false_ne_true
  · exact .busWrite a v

/-- The mode has an operand that can be written. -/
abbrev Mode.writable (m : Mode) : Prop := Mode.readable m ∧ m.among [.immediate] = false

theorem ModeSound.storing {m : Mode} (h : Mode.writable m) (f : State → Byte) : ModeSound (storing m f) := by
  intro s t he
  obtain ⟨l, hl⟩ := resolve_ok s m h.1
  rw [Machine.storing, bind_ok hl] at he
  exact ModeSound.bind (.look f) (fun v => .writeOp hl h.2 v) _ _ he

theorem ModeSound.modifying {m : Mode} (h : Mode.writable m) (c : Byte → State → Byte × β)
    (e : Byte → β → State → State) : ModeSound (modifying m c e) := by
  intro s t he
  obtain ⟨l, hl⟩ := resolve_ok s m h.1
  rw [Machine.modifying, bind_ok hl] at he
  exact ModeSound.bind (.readOp l) (fun v => .bind (.look _) fun r => .bind (.writeOp hl h.2 _) fun _ => .update _) _ _ he

theorem readable_of {m : Mode} {l : List AddrMode} (h : m.among l = true) (hl : ∀ a ∈ l, a ∉ [AddrMode.implied, .relative, .indirect]) :
    Mode.readable m := by
  have hm : m.addrMode ∈ l := by simpa [Mode.among] using h
  simpa [Mode.readable, Mode.among] using hl _ hm

theorem writable_of {m : Mode} {l : List AddrMode} (h : m.among l = true)
    (hl : ∀ a ∈ l, a ∉ [AddrMode.implied, .relative, .indirect, .immediate]) : Mode.writable m := by
  have hm : m.addrMode ∈ l := by simpa [Mode.among] using h
  have := hl _ hm
  simp only [List.mem_cons, List.not_mem_nil, or_false, not_or] at this
  simp [Mode.writable, Mode.readable, Mode.among, this]

theorem ModeSound.resolveTarget {m : Mode} (h : m.among [.absolute, .indirect] = true) : ModeSound (resolveTarget m) := by
  cases m with
  | absolute w => exact .pure _
  | indirect p => exact .bind (.busRead _) fun _ => .bind (.busRead _) fun _ => .pure _
  | _ => exact absurd h Bool.false_ne_true

theorem ModeSound.enterTrap {vector : Word} (h : 0x8000 ≤ vector) (h' : 0x8000 ≤ vector + 1) (f : Byte → Byte) :
    ModeSound (enterTrap vector f) := by
  intro s t he
  rw [enterTrap_run s h h'] at he
  cases he

/-- A well-formed instruction is never ended for its mode. -/
theorem ModeSound.body {i : Instr} (h : i.wf = true) : ModeSound (body i) := by
  cases i with
  | lda m | adc m | sbc m | and m | ora m | eor m | cmp m => exact .reading (readable_of h (by decide)) _
  | ldx m | ldy m | bit m | cpx m | cpy m | lax m => exact .reading (readable_of h (by decide)) _
  | sta m | stx m | sty m | sax m => exact .storing (writable_of h (by decide)) _
  | inc m | dec m | asl m | lsr m | rol m | ror m =>
    rw [Machine.body]
    exact .modifying (writable_of h (by decide)) _ _
  | slo m | rla m | sre m | rra m | dcp m | isc m =>
    rw [Machine.body]
    exact .modifying (writable_of h (by decide)) _ _
  | tax | tay | txa | tya | tsx | txs | inx | iny | dex | dey | clc | sec | cli | sei | cld | sed | clv => exact .update _
  | jmp m => exact .bind (.resolveTarget h) fun _ => .update _
  | jsr w => exact .bind (.look _) fun _ => .bind (.push _) fun _ => .bind (.push _) fun _ => .update _
  | rts => exact .bind .pull fun _ => .bind .pull fun _ => .update _
  | rti => exact .bind .pull fun _ => .bind (.update _) fun _ => .bind .pull fun _ => .bind .pull fun _ => .update _
  | brk => exact .bind (.look _) fun _ => .bind (.update _) fun _ => .enterTrap (by decide) (by decide) _
  | bpl d | bmi d | bvc d | bvs d | bcc d | bcs d | bne d | beq d => exact .update _
  | pha | php => exact .bind (.look _) fun _ => .push _
  | pla | plp => exact .bind .pull fun _ => .update _
  | nop op m =>
    cases m with
    | implied => exact .pure _
    | accumulator | zeropageY _ | relative _ | absoluteY _ | indirect _ | indirectX _ | indirectY _ =>
      exact absurd h Bool.false_ne_true
    | immediate _ | zeropage _ | zeropageX _ | absolute _ | absoluteX _ => exact .reading (by rfl) _
  | anc op v | alr v | arr v | sbx v | usbc v => exact .reading (by rfl) _
  | jam _ | ane | lxa | sha _ | shx | shy | tas | las => exact .stop (by simp)

end Modes

section Execute

variable {s t u : State} {op : Byte} {i : Instr} {c : Stop} {ph : Phase}

/-- Where an execute() is due, the step is that execute(), with one of the budget spent. -/
theorem step_execute (h : s.phase.spend = some ph) : step s = execute { s with phase := ph } := by
  unfold step
  cases hp : s.phase with
  | running pos =>
    rw [hp] at h
    cases pos with
    | pre n => cases n with
      | zero => cases h
      | succ n => cases h; rfl
    | vblank => cases h
    | post n => cases n with
      | zero => cases h
      | succ n => cases h; rfl
  | loaded | idle | stopped | ended => rw [hp] at h; cases h

theorem execute_fetch_error (h : fetch8 s = .error c t) : execute s = stopped c none s.pc t := by
  rw [execute, h]

theorem execute_operand_error (h : fetch8 s = .ok op t) (h' : fetchOperands op t = .error c u) :
    execute s = stopped c (some op) s.pc u := by
  rw [execute, h]
  dsimp only
  rw [h']

theorem execute_ok (h : fetch8 s = .ok op t) (h' : fetchOperands op t = .ok i u) : execute s = exec i u := by
  rw [execute, h]
  dsimp only
  rw [h']

theorem fetchBytes_succ {n : Nat} {b : Byte} {bs : List Byte} (h : fetch8 s = .ok b t) (h' : fetchBytes n t = .ok bs u) :
    fetchBytes (n + 1) s = .ok (b :: bs) u := by
  rw [fetchBytes, bind_ok h, bind_ok h']
  rfl

theorem fetchBytes_succ_inv {n : Nat} {bs : List Byte} (h : fetchBytes (n + 1) s = .ok bs u) :
    ∃ b t bs', fetch8 s = .ok b t ∧ fetchBytes n t = .ok bs' u ∧ bs = b :: bs' := by
  rw [fetchBytes] at h
  obtain ⟨b, t, hb, h⟩ := bind_ok_inv h
  obtain ⟨bs', u', hbs, h⟩ := bind_ok_inv h
  cases h
  exact ⟨b, t, bs', hb, hbs, rfl⟩

/-- The operand bytes fetched make the instruction the decoder reads from them. -/
theorem fetchOperands_of_decode {operands : List Byte} (h : decode (op :: operands) = .ok (i, []))
    (hf : fetchBytes operands.length t = .ok operands u) : fetchOperands op t = .ok i u := by
  obtain ⟨op', ops, b, c, he, rfl, ho, hl⟩ := decode_inv h
  simp only [List.append_nil, List.cons.injEq] at he
  obtain ⟨rfl, rfl⟩ := he
  have h2 := (cell_ok op).atMostTwo
  unfold fetchOperands
  revert ho hl hf
  generalize hn : (decodeEntry op).operands = n at h2
  intro hf ho hl
  interval_cases n
  · obtain rfl : operands = [] := List.length_eq_zero_iff.mp hl
    cases hf
    have := decode_entry0 hn []
    rw [h] at this
    simp only [Except.ok.injEq, Prod.mk.injEq, and_true] at this
    rw [this]
    rfl
  · obtain ⟨v, rfl⟩ := List.length_eq_one_iff.mp hl
    obtain ⟨v', t', bs', hv, hb, he⟩ := fetchBytes_succ_inv hf
    cases hb
    simp only [List.cons.injEq, and_true] at he
    subst he
    have := decode_entry1 hn v []
    rw [h] at this
    simp only [Except.ok.injEq, Prod.mk.injEq, and_true] at this
    rw [this]
    exact bind_ok hv _
  · obtain ⟨v, w, rfl⟩ := List.length_eq_two.mp hl
    obtain ⟨v', t', bs', hv, hb, he⟩ := fetchBytes_succ_inv hf
    obtain ⟨w', t'', bs'', hw, hb', he'⟩ := fetchBytes_succ_inv hb
    cases hb'
    simp only [List.cons.injEq] at he he'
    obtain ⟨rfl, rfl⟩ := he
    simp only [List.cons.injEq, and_true] at he'
    subst he'
    have := decode_entry2 hn v w []
    rw [h] at this
    simp only [Except.ok.injEq, Prod.mk.injEq, and_true] at this
    rw [this]
    exact (bind_ok hv _).trans (bind_ok hw _)

/-- What a completed operand fetch made: a well-formed instruction of this opcode, with PC moved past it. -/
theorem fetchOperands_inv (h : fetchOperands op t = .ok i u) :
    i.wf = true ∧ i.opcode = some op ∧ u.pc = t.pc + BitVec.ofNat 16 (i.fetchedBytes - 1) := by
  have k := cell_ok op
  have hlen : ∀ b c, ((decodeEntry op).make b c).fetchedBytes - 1 = (decodeEntry op).operands := fun b c => by
    rw [k.fetchedBytes, Nat.add_sub_cancel_left]
  have hop : ∀ b c, ((decodeEntry op).make b c).opcode = some op := fun b c => by
    have := k.encode b c
    unfold encode at this
    split at this
    · rename_i o ho
      simp only [List.cons.injEq] at this
      rw [ho, this.1]
    · cases this
  have hpc : ∀ {s t : State} {b : Byte}, fetch8 s = .ok b t → t.pc = s.pc + 1 := fun h => by
    obtain ⟨u, -, rfl⟩ := fetch8_inv h
    rfl
  have h2 := k.atMostTwo
  unfold fetchOperands at h
  revert h
  generalize hn : (decodeEntry op).operands = n at h2
  intro h
  interval_cases n
  · cases h
    refine ⟨k.wf _ _, hop _ _, ?_⟩
    rw [hlen, hn]
    simp
  · obtain ⟨b, t', hb, h⟩ := bind_ok_inv h
    cases h
    refine ⟨k.wf _ _, hop _ _, ?_⟩
    rw [hlen, hn, hpc hb]
    rfl
  · obtain ⟨b, t', hb, h⟩ := bind_ok_inv h
    obtain ⟨c, t'', hc, h⟩ := bind_ok_inv h
    cases h
    refine ⟨k.wf _ _, hop _ _, ?_⟩
    rw [hlen, hn, hpc hc, hpc hb, BitVec.add_assoc]
    rfl

/-- An instruction whose lines end at an unmapped access stops with that fault recorded. -/
theorem stopsUnmapped_of_body {i : Instr} {s t : State} {a : Word} {x : Access} (hi : i.wf = true)
    (h : body i s = .error (.unmapped a x) t) : StopsUnmapped i s a x t :=
  exec_error hi h

/-- Every instruction of the machine answers a next state: one its lines ran to, or one they were ended in, with the fault recorded.
Either way the state reached is related to the first by whatever the bus and the register updates respect. -/
theorem exec_outcome {R : State → State → Prop} (F : BusFrame R) {i : Instr} (hi : i.wf = true) (s : State) :
    ∃ u, R s u ∧ (exec i s = .next u ∨
      ∃ cls, exec i s = .next (u.recordFault cls i.opcode (s.pc - BitVec.ofNat 16 i.fetchedBytes))) := by
  have hR := F.body i s
  have hm := ModeSound.body hi s
  cases hb : body i s with
  | ok a u =>
    rw [hb] at hR
    exact ⟨u, hR, .inl (exec_ok hi hb)⟩
  | error c u =>
    rw [hb] at hR
    refine ⟨u, hR, .inr ?_⟩
    cases c with
    | unmapped a x => exact ⟨_, exec_error hi hb⟩
    | illegalOpcode => exact ⟨_, exec_error hi hb⟩
    | invalidMode => exact absurd hb (hm u)

theorem fetchOperands_error_inv (h : fetchOperands op t = .error c u) : ∃ a, c = .unmapped a .read := by
  have h2 := (cell_ok op).atMostTwo
  have one : ∀ {s u : State} {c : Stop}, fetch8 s = .error c u → ∃ a, c = .unmapped a .read :=
    fun h => ⟨_, (fetch8_error_inv h).1⟩
  unfold fetchOperands at h
  revert h
  generalize (decodeEntry op).operands = n at h2
  intro h
  interval_cases n
  · cases h
  · change (fetch8 >>= _) t = _ at h
    rw [bind_run] at h
    split at h
    · cases h
    · rename_i hf
      cases h
      exact one hf
  · change (fetch8 >>= _) t = _ at h
    rw [bind_run] at h
    split at h
    · rw [bind_run] at h
      split at h
      · cases h
      · rename_i hf
        cases h
        exact one hf
    · rename_i hf
      cases h
      exact one hf

theorem BusFrame.fetchOperands {R : State → State → Prop} (F : BusFrame R) (op : Byte) : Keeps R (fetchOperands op) := by
  unfold Machine.fetchOperands
  split
  · exact .pure F.toFrame _
  · exact .bind F.toFrame F.fetch8 fun _ => .pure F.toFrame _
  · exact .bind F.toFrame F.fetch8 fun _ => .bind F.toFrame F.fetch8 fun _ => .pure F.toFrame _

/-- Every execute() answers a next state; a recorded fault names the opcode's own address. -/
theorem execute_outcome {R : State → State → Prop} (F : BusFrame R) (s : State) :
    ∃ u, R s u ∧ (execute s = .next u ∨ ∃ cls o, execute s = .next (u.recordFault cls o s.pc)) := by
  cases hf : fetch8 s with
  | error c t =>
    obtain ⟨rfl, rfl, -⟩ := fetch8_error_inv hf
    exact ⟨t, F.refl t, .inr ⟨_, _, execute_fetch_error hf⟩⟩
  | ok op t =>
    have h1 := (F.fetch8).ok hf
    cases ho : Machine.fetchOperands op t with
    | error c u =>
      obtain ⟨a, rfl⟩ := fetchOperands_error_inv ho
      exact ⟨u, F.trans _ _ _ h1 ((F.fetchOperands op).error ho), .inr ⟨_, _, execute_operand_error hf ho⟩⟩
    | ok i u =>
      have h2 := F.trans _ _ _ h1 ((F.fetchOperands op).ok ho)
      obtain ⟨hw, hop, hpc⟩ := fetchOperands_inv ho
      obtain ⟨v, h3, hv⟩ := exec_outcome F hw u
      refine ⟨v, F.trans _ _ _ h2 h3, ?_⟩
      rw [execute_ok hf ho]
      rcases hv with hv | ⟨cls, hv⟩
      · exact .inl hv
      · refine .inr ⟨cls, i.opcode, ?_⟩
        rw [hv]
        have : u.pc - BitVec.ofNat 16 i.fetchedBytes = s.pc := by
          obtain ⟨w, hw', rfl⟩ := fetch8_inv hf
          have hl : i.fetchedBytes = 1 + (i.fetchedBytes - 1) := (Nat.add_sub_cancel' i.one_le_fetchedBytes).symm
          rw [hpc, State.setPc_pc, hl, BitVec.ofNat_add]
          simp only [Nat.add_sub_cancel_left]
          rw [BitVec.add_assoc]
          exact BitVec.add_sub_cancel _ _
        rw [this]

end Execute

end Sys2Proof.Machine
end

