-- ==== Sys2Proof/Tests/Slice0.lean ====
section
/-! SUPPORT. The model's own tests: terms that are no instructions, words written out from the decode table, one step of each
instruction with the results of the spec's examples (95_test_vectors.md and the rules' own), and for every statement with
hypotheses a state that meets them. -/

namespace Sys2Proof.Tests

open Machine

/-! WellFormed: one ill-formed term for each check. -/

theorem test_wf_read_mode : (Instr.lda .implied).wf = false := by decide
theorem test_wf_store_mode : (Instr.sta (.immediate 0x01)).wf = false := by decide
theorem test_wf_ldx_mode : (Instr.ldx (.zeropageX 0x10)).wf = false := by decide
theorem test_wf_ldy_mode : (Instr.ldy (.zeropageY 0x10)).wf = false := by decide
theorem test_wf_stx_mode : (Instr.stx (.absoluteY 0x0200)).wf = false := by decide
theorem test_wf_sty_mode : (Instr.sty (.absoluteX 0x0200)).wf = false := by decide
theorem test_wf_bit_mode : (Instr.bit (.immediate 0x01)).wf = false := by decide
theorem test_wf_cpx_mode : (Instr.cpx (.zeropageX 0x10)).wf = false := by decide
theorem test_wf_inc_mode : (Instr.inc .accumulator).wf = false := by decide
theorem test_wf_shift_mode : (Instr.asl (.absoluteY 0x0200)).wf = false := by decide
theorem test_wf_jmp_mode : (Instr.jmp (.zeropage 0x10)).wf = false := by decide
theorem test_wf_nop_pair : (Instr.nop 0xEA (.absolute 0x0200)).wf = false := by decide
theorem test_wf_combined_mode : (Instr.slo .accumulator).wf = false := by decide
theorem test_wf_sax_mode : (Instr.sax (.zeropageX 0x10)).wf = false := by decide
theorem test_wf_lax_mode : (Instr.lax (.immediate 0x10)).wf = false := by decide
theorem test_wf_anc_opcode : (Instr.anc 0x4B 0x10).wf = false := by decide
theorem test_wf_jam_opcode : (Instr.jam 0xEA).wf = false := by decide
theorem test_wf_sha_opcode : (Instr.sha 0x9E).wf = false := by decide
theorem test_wf_refused : exec (.lda .implied) State.reset = .refused .invalidMode := by rfl

/-! Decoding: words written out from the rows of 30_encoding.md R114. -/

theorem test_decode_load : decode [0xB9, 0x34, 0x12] = .ok (.lda (.absoluteY 0x1234), []) := by decide
theorem test_decode_store : decode [0x91, 0x10, 0xEA] = .ok (.sta (.indirectY 0x10), [0xEA]) := by decide
theorem test_decode_transfer : decode [0x9A] = .ok (.txs, []) := by decide
theorem test_decode_arithmetic : decode [0x7D, 0xFF, 0x00] = .ok (.adc (.absoluteX 0x00FF), []) := by decide
theorem test_decode_shift : decode [0x66, 0x80] = .ok (.ror (.zeropage 0x80), []) := by decide
theorem test_decode_jump : decode [0x6C, 0xFF, 0x02] = .ok (.jmp (.indirect 0x02FF), []) := by decide
theorem test_decode_branch : decode [0x70, 0x80] = .ok (.bvs 0x80, []) := by decide
theorem test_decode_stack : decode [0x08] = .ok (.php, []) := by decide
theorem test_decode_flag : decode [0xB8] = .ok (.clv, []) := by decide
theorem test_decode_nop : decode [0x3C, 0x00, 0x02] = .ok (.nop 0x3C (.absoluteX 0x0200), []) := by decide
theorem test_decode_combined : decode [0x1B, 0x00, 0x02] = .ok (.slo (.absoluteY 0x0200), []) := by decide
theorem test_decode_combination : decode [0x6B, 0xFF] = .ok (.arr 0xFF, []) := by decide
theorem test_decode_faulting : decode [0x93, 0x10] = .ok (.sha 0x93, [0x10]) := by decide
/-- The modes R114 gives the eight faulting cells that are not implied. -/
theorem test_decode_faulting_modes :
    ([0x8B, 0xAB, 0x93, 0x9F, 0x9B, 0x9E, 0xBB, 0x9C].map fun op => (decodeEntry op).mode) =
      [.immediate, .immediate, .indirectY, .absoluteY, .absoluteY, .absoluteY, .absoluteY, .absoluteX] := by decide
theorem test_decode_truncated : decode [0xAD, 0x00] = .error (.truncated 0xAD) := by decide
theorem test_decode_table_word : decodeTableWord 24 0x123420 = some (.jsr 0x1234) := by decide
theorem test_decode_no_byte : decode [] = .error .noBytes := by decide

/-! Decoding: one word of every instruction, written out from the encodings its rule lists. -/

/-- 41_load_store_transfer.md. -/
theorem test_decode_each_of_loads_stores_transfers :
    decode [0x9D, 0x34, 0x12] = .ok (.sta (.absoluteX 0x1234), []) ∧
      decode [0x94, 0x12] = .ok (.sty (.zeropageX 0x12), []) ∧
      decode [0x96, 0x12] = .ok (.stx (.zeropageY 0x12), []) ∧
      decode [0x8A] = .ok (.txa, []) ∧
      decode [0x98] = .ok (.tya, []) ∧
      decode [0x9A] = .ok (.txs, []) ∧
      decode [0xBC, 0x34, 0x12] = .ok (.ldy (.absoluteX 0x1234), []) ∧
      decode [0xBD, 0x34, 0x12] = .ok (.lda (.absoluteX 0x1234), []) ∧
      decode [0xBE, 0x34, 0x12] = .ok (.ldx (.absoluteY 0x1234), []) ∧
      decode [0xA8] = .ok (.tay, []) ∧
      decode [0xAA] = .ok (.tax, []) ∧
      decode [0xBA] = .ok (.tsx, []) := by and_intros <;> decide

/-- 42_arith_logic.md. -/
theorem test_decode_each_of_arithmetic :
    decode [0x1D, 0x34, 0x12] = .ok (.ora (.absoluteX 0x1234), []) ∧
      decode [0x3D, 0x34, 0x12] = .ok (.and (.absoluteX 0x1234), []) ∧
      decode [0x2C, 0x34, 0x12] = .ok (.bit (.absolute 0x1234), []) ∧
      decode [0x5D, 0x34, 0x12] = .ok (.eor (.absoluteX 0x1234), []) ∧
      decode [0x7D, 0x34, 0x12] = .ok (.adc (.absoluteX 0x1234), []) ∧
      decode [0x88] = .ok (.dey, []) ∧
      decode [0xCC, 0x34, 0x12] = .ok (.cpy (.absolute 0x1234), []) ∧
      decode [0xDD, 0x34, 0x12] = .ok (.cmp (.absoluteX 0x1234), []) ∧
      decode [0xDE, 0x34, 0x12] = .ok (.dec (.absoluteX 0x1234), []) ∧
      decode [0xC8] = .ok (.iny, []) ∧
      decode [0xCA] = .ok (.dex, []) ∧
      decode [0xEC, 0x34, 0x12] = .ok (.cpx (.absolute 0x1234), []) ∧
      decode [0xFD, 0x34, 0x12] = .ok (.sbc (.absoluteX 0x1234), []) ∧
      decode [0xFE, 0x34, 0x12] = .ok (.inc (.absoluteX 0x1234), []) ∧
      decode [0xE8] = .ok (.inx, []) := by and_intros <;> decide

/-- 43_shift_rotate.md. -/
theorem test_decode_each_of_shifts :
    decode [0x1E, 0x34, 0x12] = .ok (.asl (.absoluteX 0x1234), []) ∧
      decode [0x3E, 0x34, 0x12] = .ok (.rol (.absoluteX 0x1234), []) ∧
      decode [0x5E, 0x34, 0x12] = .ok (.lsr (.absoluteX 0x1234), []) ∧
      decode [0x7E, 0x34, 0x12] = .ok (.ror (.absoluteX 0x1234), []) := by and_intros <;> decide

/-- 44_control.md. -/
theorem test_decode_each_of_control :
    decode [0x00] = .ok (.brk, []) ∧
      decode [0x10, 0xF8] = .ok (.bpl 0xF8, []) ∧
      decode [0x20, 0x34, 0x12] = .ok (.jsr 0x1234, []) ∧
      decode [0x30, 0xF8] = .ok (.bmi 0xF8, []) ∧
      decode [0x40] = .ok (.rti, []) ∧
      decode [0x6C, 0x34, 0x12] = .ok (.jmp (.indirect 0x1234), []) ∧
      decode [0x50, 0xF8] = .ok (.bvc 0xF8, []) ∧
      decode [0x60] = .ok (.rts, []) ∧
      decode [0x70, 0xF8] = .ok (.bvs 0xF8, []) ∧
      decode [0x90, 0xF8] = .ok (.bcc 0xF8, []) ∧
      decode [0xB0, 0xF8] = .ok (.bcs 0xF8, []) ∧
      decode [0xD0, 0xF8] = .ok (.bne 0xF8, []) ∧
      decode [0xF0, 0xF8] = .ok (.beq 0xF8, []) := by and_intros <;> decide

/-- 45_stack_flags_nop.md. -/
theorem test_decode_each_of_stack_flags :
    decode [0xFC, 0x34, 0x12] = .ok (.nop 0xFC (.absoluteX 0x1234), []) ∧
      decode [0x08] = .ok (.php, []) ∧
      decode [0x18] = .ok (.clc, []) ∧
      decode [0x28] = .ok (.plp, []) ∧
      decode [0x38] = .ok (.sec, []) ∧
      decode [0x48] = .ok (.pha, []) ∧
      decode [0x58] = .ok (.cli, []) ∧
      decode [0x68] = .ok (.pla, []) ∧
      decode [0x78] = .ok (.sei, []) ∧
      decode [0xB8] = .ok (.clv, []) ∧
      decode [0xD8] = .ok (.cld, []) ∧
      decode [0xF8] = .ok (.sed, []) := by and_intros <;> decide

/-- 46_illegal.md. -/
theorem test_decode_each_of_illegal :
    decode [0xF2] = .ok (.jam 0xF2, []) ∧
      decode [0x1F, 0x34, 0x12] = .ok (.slo (.absoluteX 0x1234), []) ∧
      decode [0x2B, 0x5A] = .ok (.anc 0x2B 0x5A, []) ∧
      decode [0x3F, 0x34, 0x12] = .ok (.rla (.absoluteX 0x1234), []) ∧
      decode [0x5F, 0x34, 0x12] = .ok (.sre (.absoluteX 0x1234), []) ∧
      decode [0x4B, 0x5A] = .ok (.alr 0x5A, []) ∧
      decode [0x7F, 0x34, 0x12] = .ok (.rra (.absoluteX 0x1234), []) ∧
      decode [0x6B, 0x5A] = .ok (.arr 0x5A, []) ∧
      decode [0x97, 0x12] = .ok (.sax (.zeropageY 0x12), []) ∧
      decode [0x8B] = .ok (.ane, []) ∧
      decode [0x9F] = .ok (.sha 0x9F, []) ∧
      decode [0x9B] = .ok (.tas, []) ∧
      decode [0x9C] = .ok (.shy, []) ∧
      decode [0x9E] = .ok (.shx, []) ∧
      decode [0xBF, 0x34, 0x12] = .ok (.lax (.absoluteY 0x1234), []) ∧
      decode [0xAB] = .ok (.lxa, []) ∧
      decode [0xBB] = .ok (.las, []) ∧
      decode [0xDF, 0x34, 0x12] = .ok (.dcp (.absoluteX 0x1234), []) ∧
      decode [0xCB, 0x5A] = .ok (.sbx 0x5A, []) ∧
      decode [0xFF, 0x34, 0x12] = .ok (.isc (.absoluteX 0x1234), []) ∧
      decode [0xEB, 0x5A] = .ok (.usbc 0x5A, []) := by and_intros <;> decide

/-! One step on a small state: the reset state with PC at $8000, one instruction budget of one, and the given bytes there. -/

/-- "State not named has its reset value … An instruction whose bytes are listed sits at $8000" (95_test_vectors.md). -/
def base : State := { State.reset with pc := 0x8000 }

/-- The state with these bytes at $8000 and an execute() due. -/
def placed (bs : List Byte) (s : State) : State :=
  { s with phase := .running (.pre 1), cart := { s.cart with prg := .ofList 0 bs } }

/-- The state one step later. -/
def ran (bs : List Byte) (s : State) : State :=
  match step (placed bs s) with
  | .next t => t
  | _ => s

/-! Addressing modes (95_test_vectors.md 2.1, the modes' examples spread over instructions that read alike). -/

theorem test_lda_immediate :
    (let t := ran [0xA9, 0x00] { base with a := 0x55 }; (t.a, t.p, t.pc) = (0x00, 0x26, 0x8002)) := by decide
theorem test_ldy_zeropageX_wraps :
    (let t := ran [0xB4, 0xFF] { base with x := 0x02, ram := [(0x01, 0x77)] }; (t.y, t.p) = (0x77, 0x24)) := by decide
theorem test_ldx_zeropageY_wraps : (ran [0xB6, 0xFF] { base with y := 0x03, ram := [(0x02, 0x66)] }).x = 0x66 := by decide
theorem test_ora_absolute_mirror :
    (let t := ran [0x0D, 0xFF, 0x1F] { base with ram := [(0x7FF, 0x99)] }; (t.a, t.p, t.pc) = (0x99, 0xA4, 0x8003)) := by decide
theorem test_lda_absoluteX_wraps :
    (let t := ran [0xBD, 0xFF, 0xFF] { base with x := 0x01 }; (t.a, t.p) = (0x00, 0x26)) := by decide
theorem test_eor_indirectX_wraps :
    (ran [0x41, 0xFF] { base with ram := [(0x00, 0x02), (0xFF, 0x34), (0x234, 0xAB)] }).a = 0xAB := by decide
theorem test_and_indirectY_wraps :
    (ran [0x31, 0xFF] { base with a := 0xFF, y := 0x01, ram := [(0x00, 0x01), (0xFF, 0xFF), (0x200, 0xCD)] }).a = 0xCD := by decide
theorem test_jmp_indirect_page_wrap :
    (ran [0x6C, 0xFF, 0x02] { base with ram := [(0x200, 0x12), (0x2FF, 0x34), (0x300, 0x56)] }).pc = 0x1234 := by decide
theorem test_jmp_self : (ran [0x4C, 0x00, 0x80] base).pc = 0x8000 := by decide
theorem test_bne_taken : (ran [0xD0, 0x02] base).pc = 0x8004 := by decide
theorem test_bne_on_itself : (ran [0xD0, 0xFE] base).pc = 0x8000 := by decide
theorem test_beq_not_taken : (ran [0xF0, 0x02] base).pc = 0x8002 := by decide
theorem test_bpl_backwards : (ran [0x10, 0x80] base).pc = 0x7F82 := by decide

/-! The other branches, each on the flag that takes it (44_control.md R218 to R225, from R217). -/

theorem test_bmi_taken : (ran [0x30, 0x02] { base with p := 0xA4 }).pc = 0x8004 := by decide
theorem test_bvc_not_taken : (ran [0x50, 0x02] { base with p := 0x64 }).pc = 0x8002 := by decide
theorem test_bvs_taken : (ran [0x70, 0x02] { base with p := 0x64 }).pc = 0x8004 := by decide
theorem test_bcc_not_taken : (ran [0x90, 0x02] { base with p := 0x25 }).pc = 0x8002 := by decide
theorem test_bcs_taken : (ran [0xB0, 0x02] { base with p := 0x25 }).pc = 0x8004 := by decide
theorem test_beq_taken : (ran [0xF0, 0x02] { base with p := 0x26 }).pc = 0x8004 := by decide

/-! Loads, stores, transfers (95_test_vectors.md 2.2; 41_load_store_transfer.md R152 to R161). -/

theorem test_ldx_immediate : (let t := ran [0xA2, 0x80] base; (t.x, t.p) = (0x80, 0xA4)) := by decide
theorem test_ldy_immediate : (let t := ran [0xA0, 0x00] { base with y := 0x01 }; (t.y, t.p) = (0x00, 0x26)) := by decide
theorem test_sta_mirror :
    (let t := ran [0x8D, 0x00, 0x08] { base with a := 0x42 }; (t.ram, t.p) = ([(0x000, 0x42)], 0x24)) := by decide
theorem test_stx_zeropageY :
    (let t := ran [0x96, 0x10] { base with x := 0x11, y := 0x01, p := 0x27 }; (t.ram, t.p) = ([(0x011, 0x11)], 0x27)) := by decide
theorem test_sty_zeropageX : (ran [0x94, 0x10] { base with y := 0x22, x := 0xFF }).ram = [(0x00F, 0x22)] := by decide
theorem test_tax : (let t := ran [0xAA] { base with a := 0x00, x := 0x05 }; (t.x, t.p) = (0x00, 0x26)) := by decide
theorem test_tay : (let t := ran [0xA8] { base with a := 0x80 }; (t.y, t.p) = (0x80, 0xA4)) := by decide
theorem test_txa : (let t := ran [0x8A] { base with x := 0x01, a := 0x80 }; (t.a, t.p) = (0x01, 0x24)) := by decide
theorem test_tya : (let t := ran [0x98] { base with y := 0x80 }; (t.a, t.p) = (0x80, 0xA4)) := by decide
theorem test_tsx : (let t := ran [0xBA] base; (t.x, t.p) = (0xFD, 0xA4)) := by decide
theorem test_txs : (let t := ran [0x9A] { base with x := 0x00 }; (t.sp, t.p) = (0x00, 0x24)) := by decide

/-! Arithmetic and logic (95_test_vectors.md E6, E7, 2.3). -/

theorem test_adc_example : (let t := ran [0x69, 0x50] { base with a := 0x50 }; (t.a, t.p) = (0xA0, 0xE4)) := by decide
theorem test_adc_decimal_ignored :
    (let t := ran [0x69, 0x09] { base with a := 0x09, p := 0x2C }; (t.a, t.p) = (0x12, 0x2C)) := by decide
theorem test_sbc_borrow :
    (let t := ran [0xE9, 0x01] { base with a := 0x00, p := 0x25 }; (t.a, t.p) = (0xFF, 0xA4)) := by decide
theorem test_sbc_overflow :
    (let t := ran [0xE9, 0xB0] { base with a := 0x50, p := 0x25 }; (t.a, t.p) = (0xA0, 0xE4)) := by decide
theorem test_and_immediate : (let t := ran [0x29, 0x0F] { base with a := 0xF0 }; (t.a, t.p) = (0x00, 0x26)) := by decide
theorem test_ora_immediate : (let t := ran [0x09, 0x01] { base with a := 0x80 }; (t.a, t.p) = (0x81, 0xA4)) := by decide
theorem test_eor_immediate : (let t := ran [0x49, 0xFF] { base with a := 0xFF }; (t.a, t.p) = (0x00, 0x26)) := by decide
theorem test_bit_zeropage :
    (let t := ran [0x24, 0x10] { base with a := 0x01, ram := [(0x10, 0xC0)] }; (t.a, t.p) = (0x01, 0xE6)) := by decide
theorem test_cmp_example : (let t := ran [0xC9, 0x20] { base with a := 0x10 }; (t.a, t.p) = (0x10, 0xA4)) := by decide
theorem test_cpx_immediate : (let t := ran [0xE0, 0x80] { base with x := 0x7F }; (t.x, t.p) = (0x7F, 0xA4)) := by decide
theorem test_cpy_immediate : (let t := ran [0xC0, 0x00] { base with y := 0x80 }; (t.y, t.p) = (0x80, 0xA5)) := by decide
theorem test_inc_wraps :
    (let t := ran [0xE6, 0x10] { base with ram := [(0x10, 0xFF)] }; (t.ram, t.p) = ([], 0x26)) := by decide
theorem test_dec_wraps : (let t := ran [0xC6, 0x10] base; (t.ram, t.p) = ([(0x10, 0xFF)], 0xA4)) := by decide
theorem test_inx_wraps : (let t := ran [0xE8] { base with x := 0xFF }; (t.x, t.p) = (0x00, 0x26)) := by decide
theorem test_iny : (let t := ran [0xC8] { base with y := 0x7F }; (t.y, t.p) = (0x80, 0xA4)) := by decide
theorem test_dex : (let t := ran [0xCA] { base with x := 0x01 }; (t.x, t.p) = (0x00, 0x26)) := by decide
theorem test_dey_wraps : (let t := ran [0x88] { base with y := 0x00 }; (t.y, t.p) = (0xFF, 0xA4)) := by decide

/-! Shifts and rotates (95_test_vectors.md 2.4). -/

theorem test_asl_accumulator : (let t := ran [0x0A] { base with a := 0x81 }; (t.a, t.p) = (0x02, 0x25)) := by decide
theorem test_lsr_accumulator : (let t := ran [0x4A] { base with a := 0x01 }; (t.a, t.p) = (0x00, 0x27)) := by decide
theorem test_rol_accumulator : (let t := ran [0x2A] { base with a := 0x80 }; (t.a, t.p) = (0x00, 0x27)) := by decide
theorem test_rol_zeropage :
    (let t := ran [0x26, 0x10] { base with ram := [(0x10, 0x40)], p := 0x25 }; (t.ram, t.p) = ([(0x10, 0x81)], 0xA4)) := by decide
theorem test_ror_accumulator :
    (let t := ran [0x6A] { base with a := 0x01, p := 0x25 }; (t.a, t.p) = (0x80, 0xA5)) := by decide

/-! Control, stack, flags, NOP (95_test_vectors.md 2.5, 2.6). -/

theorem test_jsr :
    (let t := ran [0x20, 0x10, 0x80] base; (t.pc, t.sp, t.ram) = (0x8010, 0xFB, [(0x1FC, 0x02), (0x1FD, 0x80)])) := by decide
theorem test_rts :
    (let t := ran [0x60] { base with sp := 0xFB, ram := [(0x1FC, 0x02), (0x1FD, 0x80)] }; (t.pc, t.sp) = (0x8003, 0xFD)) := by decide
theorem test_rti :
    (let t := ran [0x40] { base with sp := 0xFA, ram := [(0x1FB, 0xD3), (0x1FD, 0x90)] }; (t.p, t.pc, t.sp) = (0xE3, 0x9000, 0xFD)) := by decide
theorem test_brk :
    (let t := ran [0x00, 0x00] { base with p := 0x20 }; (t.sp, t.p, t.ram) = (0xFA, 0x24, [(0x1FB, 0x30), (0x1FC, 0x02), (0x1FD, 0x80)])) := by decide
theorem test_pha_wraps :
    (let t := ran [0x48] { base with a := 0x5A, sp := 0x00 }; (t.ram, t.sp) = ([(0x100, 0x5A)], 0xFF)) := by decide
theorem test_pla_wraps :
    (let t := ran [0x68] { base with sp := 0xFF, ram := [(0x100, 0x80)] }; (t.a, t.sp, t.p) = (0x80, 0x00, 0xA4)) := by decide
theorem test_php : (let t := ran [0x08] base; (t.ram, t.sp, t.p) = ([(0x1FD, 0x34)], 0xFC, 0x24)) := by decide
theorem test_plp : (let t := ran [0x28] { base with sp := 0xFC }; (t.p, t.sp) = (0x20, 0xFD)) := by decide
theorem test_clc : (ran [0x18] { base with p := 0xFF }).p = 0xFE := by decide
theorem test_sec : (ran [0x38] base).p = 0x25 := by decide
theorem test_cli : (ran [0x58] base).p = 0x20 := by decide
theorem test_sei : (ran [0x78] { base with p := 0x20 }).p = 0x24 := by decide
theorem test_cld : (ran [0xD8] { base with p := 0x2C }).p = 0x24 := by decide
theorem test_sed : (ran [0xF8] base).p = 0x2C := by decide
theorem test_clv : (ran [0xB8] { base with p := 0x64 }).p = 0x24 := by decide

/-! Documented-illegal opcodes (46_illegal.md, the examples of R261 to R276; 95_test_vectors.md 2.7). -/

theorem test_slo :
    (let t := ran [0x07, 0x10] { base with a := 0x01, ram := [(0x10, 0x81)] }; (t.a, t.p, t.ram) = (0x03, 0x25, [(0x10, 0x02)])) := by decide
theorem test_rla :
    (let t := ran [0x27, 0x10] { base with a := 0xFF, p := 0x25, ram := [(0x10, 0x80)] }; (t.a, t.p, t.ram) = (0x01, 0x25, [(0x10, 0x01)])) := by decide
theorem test_sre :
    (let t := ran [0x47, 0x10] { base with a := 0xFF, ram := [(0x10, 0x03)] }; (t.a, t.p, t.ram) = (0xFE, 0xA5, [(0x10, 0x01)])) := by decide
theorem test_rra :
    (let t := ran [0x67, 0x10] { base with a := 0x10, ram := [(0x10, 0x03)] }; (t.a, t.p, t.ram) = (0x12, 0x24, [(0x10, 0x01)])) := by decide
theorem test_sax :
    (let t := ran [0x87, 0x10] { base with a := 0xF0, x := 0x3C }; (t.ram, t.p) = ([(0x10, 0x30)], 0x24)) := by decide
theorem test_lax_indirectY :
    (let t := ran [0xB3, 0x10] { base with ram := [(0x11, 0x02), (0x200, 0x80)] }; (t.a, t.x, t.p) = (0x80, 0x80, 0xA4)) := by decide
theorem test_dcp :
    (let t := ran [0xC7, 0x10] { base with a := 0x10, ram := [(0x10, 0x11)] }; (t.a, t.p, t.ram) = (0x10, 0x27, [(0x10, 0x10)])) := by decide
theorem test_isc :
    (let t := ran [0xE7, 0x10] { base with a := 0x10, p := 0x25, ram := [(0x10, 0x0F)] }; (t.a, t.p, t.ram) = (0x00, 0x27, [(0x10, 0x10)])) := by decide
theorem test_anc : (let t := ran [0x2B, 0x80] { base with a := 0xFF }; (t.a, t.p) = (0x80, 0xA5)) := by decide
theorem test_alr : (let t := ran [0x4B, 0x03] { base with a := 0xFF }; (t.a, t.p) = (0x01, 0x25)) := by decide
theorem test_arr : (let t := ran [0x6B, 0xFF] { base with a := 0xFF, p := 0x25 }; (t.a, t.p) = (0xFF, 0xA5)) := by decide
theorem test_arr_overflow : (let t := ran [0x6B, 0xFF] { base with a := 0x80 }; (t.a, t.p) = (0x40, 0x65)) := by decide
theorem test_sbx : (let t := ran [0xCB, 0x10] { base with a := 0xFF, x := 0x0F }; (t.x, t.p) = (0xFF, 0xA4)) := by decide
theorem test_usbc : (let t := ran [0xEB, 0x03] { base with a := 0x05, p := 0x25 }; (t.a, t.p) = (0x02, 0x25)) := by decide
theorem test_nop_absoluteX_reads_port :
    (let t := ran [0x1C, 0x02, 0x20] { base with status := 0x80, w := true }; (t.status, t.pc, t.p) = (0x00, 0x8003, 0x24)) := by decide

/-! Devices (95_test_vectors.md E8, E9, 2.8, 2.9). -/

theorem test_status_read :
    (let t := ran [0xAD, 0x02, 0x20] { base with status := 0x80, w := true }; (t.a, t.p, t.status, t.w) = (0x80, 0xA4, 0x00, false)) := by decide
theorem test_status_mirror : (ran [0xAD, 0xFA, 0x3F] { base with status := 0x80 }).a = 0x80 := by decide
theorem test_ctrl_mirror : (ran [0x8D, 0x08, 0x20] { base with a := 0x84 }).ctrl = 0x84 := by decide
theorem test_palette_mirror :
    (let t := ran [0x8D, 0x07, 0x20] { base with a := 0x2A, vaddr := 0x3F10 }; (t.pal, t.vaddr) = ([(0x00, 0x2A)], 0x3F11)) := by decide
theorem test_data_read_is_late :
    (let t := ran [0xAD, 0x07, 0x20] { base with vaddr := 0x2000, rdbuf := 0x99, vram := [(0x00, 0x41)] }; (t.a, t.rdbuf, t.vaddr) = (0x99, 0x41, 0x2001)) := by decide
theorem test_audio_read : (let t := ran [0xAD, 0x15, 0x40] base; (t.a, t.p) = (0x00, 0x26)) := by decide
theorem test_joystick_read :
    (let t := ran [0xAD, 0x16, 0x40] { base with buttons := { a := true } }; (t.a, t.jidx.val) = (0x01, 1)) := by decide
theorem test_rom_write_ignored :
    (let t := ran [0x8D, 0x00, 0x80] { base with a := 0x12 }; (t.ram, t.p) = ([], 0x24)) := by decide

/-! Faults (95_test_vectors.md 2.1, 2.7, 2.11, P7). -/

/-- A fault record with the registers of reset. -/
def faultOf (cls : FaultClass) (opcode : Option Byte) (a : Byte) : FaultRecord :=
  { cls, opcode, pc := 0x8000, a, x := 0x00, y := 0x00, s := 0xFD, p := 0x24 }

theorem test_cmp_unmapped_pointer :
    (ran [0xD1, 0x10] { base with ram := [(0x11, 0x60)] }).fault =
      some (faultOf (.unmappedAddress 0x6000 .read) (some 0xD1) 0x00) := by decide
theorem test_nop_unmapped :
    (let t := ran [0x0C, 0x20, 0x40] base; (t.fault, t.pc, t.phase) =
      (some (faultOf (.unmappedAddress 0x4020 .read) (some 0x0C) 0x00), 0x8003, .stopped)) := by decide
theorem test_slo_unmapped :
    (ran [0x0F, 0x18, 0x40] base).fault = some (faultOf (.unmappedAddress 0x4018 .read) (some 0x0F) 0x00) := by decide
theorem test_sta_unmapped :
    (ran [0x8D, 0x00, 0x50] { base with a := 0x01 }).fault =
      some (faultOf (.unmappedAddress 0x5000 .write) (some 0x8D) 0x01) := by decide
theorem test_jam :
    (let t := ran [0x02] base; (t.fault, t.pc, t.phase) =
      (some (faultOf .illegalOpcode (some 0x02) 0x00), 0x8001, .stopped)) := by decide
theorem test_ane : (ran [0x8B, 0x00] base).fault = some (faultOf .illegalOpcode (some 0x8B) 0x00) := by decide
theorem test_lxa : (ran [0xAB] base).fault = some (faultOf .illegalOpcode (some 0xAB) 0x00) := by decide
theorem test_sha : (ran [0x9F] base).fault = some (faultOf .illegalOpcode (some 0x9F) 0x00) := by decide
theorem test_shx : (ran [0x9E] base).fault = some (faultOf .illegalOpcode (some 0x9E) 0x00) := by decide
theorem test_shy : (ran [0x9C] base).fault = some (faultOf .illegalOpcode (some 0x9C) 0x00) := by decide
theorem test_tas : (ran [0x9B] base).fault = some (faultOf .illegalOpcode (some 0x9B) 0x00) := by decide
theorem test_las :
    (let t := ran [0xBB, 0x00, 0x02] base; (t.fault, t.pc) =
      (some (faultOf .illegalOpcode (some 0xBB) 0x00), 0x8001)) := by decide

/-! The VBlank step and the host's side (95_test_vectors.md 2.9, 2.11; 60_exceptions.md R340, R364, R383). -/

/-- The state an outcome leads to. -/
def nextOf (o : Outcome) (s : State) : State :=
  match o with
  | .next t => t
  | _ => s

theorem test_setVBlank_rising :
    ({ base with ctrl := 0x80 }.setVBlank true).1 = true ∧ ({ base with ctrl := 0x80, status := 0x80 }.setVBlank true).1 = false ∧
      (base.setVBlank true).1 = false ∧ (base.setVBlank true).2.status = 0x80 := by decide
theorem test_nmi_entry :
    (let t := nmiEntry { base with pc := 0x8005, p := 0xA4, cart := { base.cart with prg := [(0x3FFA, 0x10), (0x3FFB, 0x80)] } };
      (t.ram, t.sp, t.p, t.pc) = ([(0x1FB, 0xA4), (0x1FC, 0x05), (0x1FD, 0x80)], 0xFA, 0xA4, 0x8010)) := by decide
theorem test_nmi_entry_sets_i :
    (let t := nmiEntry { base with p := 0x20 }; (t.ram.read 0x1FB, t.p) = (0x20, 0x24)) := by decide
theorem test_frame_after_fault :
    step { base with phase := .stopped, fault := some (faultOf .illegalOpcode none 0x00), calls := [.frame] } =
      .next { base with phase := .stopped, fault := some (faultOf .illegalOpcode none 0x00) } := by rfl
theorem test_short_image_refused : State.load [0x4E, 0x45, 0x53, 0x1A, 0x01, 0x00, 0, 0, 0, 0] = .error .malformedCartridge := by
  decide
theorem test_no_program_bank_refused : State.load (List.replicate 16 0x00) = .error .malformedCartridge := by decide

/-- The set-up of 95_test_vectors.md 2.10: tile 0's first row solid, all OAM $00, so that the reset-value sprites cover it. -/
def solidRow : State := { base with chrRam := [(0, 0xFF)], pal := [(0x01, 0x21), (0x11, 0x16)] }

theorem test_pixel_sprite_covers : solidRow.pixel 0 0 = 0x16 := by decide
theorem test_pixel_background : solidRow.pixel 8 0 = 0x21 ∧ solidRow.pixel 0 8 = 0x21 ∧ solidRow.pixel 0 1 = 0x00 := by decide

/-! For every statement with hypotheses, a concrete state and operands that meet them, at the ends of each clause's range. -/

theorem witness_DecodeOfEncode :
    (Instr.lda (.absoluteX 0x02F0)).wf = true ∧ (Instr.nop 0x89 (.immediate 0x01)).wf = true ∧ (Instr.sha 0x9F).wf = true := by
  decide
theorem witness_EncodeOfDecode : decode [0xA9, 0x80, 0x01] = .ok (.lda (.immediate 0x80), [0x01]) := by decide
theorem witness_OpcodeFixesModeAndLength :
    ([0x80] : List Byte).length = AddrMode.immediate.operandBytes ∧
      ([0x34, 0x12] : List Byte).length = AddrMode.absolute.operandBytes ∧
      ([0x34] : List Byte).length < AddrMode.absolute.operandBytes ∧ (0x8B : Byte) ∈ faultingOpcodes ∧
      (0xA9 : Byte) ∉ faultingOpcodes ∧ faulting (.lda (.immediate 0x80)) = false := by decide
theorem witness_StepRunsDecodedInstruction :
    (placed [0xA9, 0x80] base).phase.spend = some (.running (.pre 0)) ∧
      decode [0xA9, 0x80] = .ok (.lda (.immediate 0x80), []) ∧
      fetchBytes 2 { placed [0xA9, 0x80] base with phase := .running (.pre 0) } =
        .ok [0xA9, 0x80] { placed [0xA9, 0x80] base with phase := .running (.pre 0), pc := 0x8002 } :=
  ⟨rfl, by decide, rfl⟩
theorem witness_FetchReadsTheStoredBytes :
    (∀ k < 2, holdsCode ((0xFFFF : Word) + BitVec.ofNat 16 k) = true) ∧
      (∀ k < 2, holdsCode ((0x1FFE : Word) + BitVec.ofNat 16 k) = true) ∧
      (∀ k < 1, holdsCode ((0x8000 : Word) + BitVec.ofNat 16 k) = true) := by decide
theorem witness_UnmappedFetchStopsTheMachine :
    (placed [] base).phase.spend = some (.running (.pre 0)) ∧
      (Phase.running (.post 3)).spend = some (.running (.post 2)) ∧
      mapped 0x4018 = false ∧ mapped 0x7FFF = false ∧ mapped 0x4017 = true ∧ mapped 0x8000 = true := by decide
theorem witness_FaultingOpcodesStopTheMachine :
    fetch8 { placed [0xBB] base with phase := .running (.pre 0) } =
        .ok 0xBB { placed [0xBB] base with phase := .running (.pre 0), pc := 0x8001 } ∧
      0xBB ∈ faultingOpcodes ∧ (Instr.las.wf = true ∧ faulting .las = true) ∧ (Instr.jam 0x02).wf = true ∧
      decode [0x93, 0x10, 0x20] = .ok (.sha 0x93, [0x10, 0x20]) ∧ 0xF2 ∈ jamOpcodes :=
  ⟨rfl, by decide, by decide, by decide, by decide, by decide⟩

/-- Each range's two ends. -/
theorem witness_BusFollowsTheAddressMap :
    (0x0000 : Word).toNat ≤ 0x1FFF ∧ (0x1FFF : Word).toNat ≤ 0x1FFF ∧
      (0x2000 ≤ (0x2000 : Word).toNat ∧ (0x3FFF : Word).toNat ≤ 0x3FFF) ∧
      (∀ a ∈ ([0x4000, 0x4013, 0x4015, 0x4017] : List Word),
        0x4000 ≤ a.toNat ∧ a.toNat ≤ 0x4017 ∧ a ≠ 0x4014 ∧ a ≠ 0x4016) ∧
      (∀ a ∈ ([0x4018, 0x7FFF] : List Word), 0x4018 ≤ a.toNat ∧ a.toNat ≤ 0x7FFF) ∧
      ∀ a ∈ ([0x8000, 0xFFFF] : List Word), 0x8000 ≤ a.toNat := by simp
theorem witness_RamMirrorsShareStorage :
    base.ram.wf ∧ (0x0000 : Word).toNat ≤ 0x1FFF ∧ (0x1800 : Word).toNat ≤ 0x1FFF ∧ (0x1FFF : Word).toNat ≤ 0x1FFF := by decide
theorem witness_AccessesCompleteExactlyWhereMapped :
    ((0xFFFA : Word) = 0xFFFA ∨ (0xFFFA : Word) = 0xFFFC ∨ (0xFFFA : Word) = 0xFFFE) ∧
      ∃ v t, busRead 0x4017 base = .ok v t := ⟨by decide, 0x00, base, rfl⟩
theorem witness_OamDmaCopiesThroughTheBus :
    base.oam.wf ∧ (0x00 : Byte).toNat < 0x20 ∧ (0x1F : Byte).toNat < 0x20 ∧ 0x80 ≤ (0x80 : Byte).toNat ∧
      0x80 ≤ (0xFF : Byte).toNat ∧ (0x41 ≤ (0x41 : Byte).toNat ∧ (0x7F : Byte).toNat ≤ 0x7F) := by decide
theorem witness_SideEffectsAreConfined :
    busRead 0x2002 base = .ok 0x00 base ∧ busRead 0x3FFA base = .ok 0x00 base ∧ isPort 2 0x2002 = true ∧ isPort 2 0x3FFA = true ∧
      busRead 0x2007 base = .ok 0x00 { base with vaddr := 1 } ∧ isPort 7 0x2007 = true ∧ isPort 7 0x3FFF = true ∧
      busRead 0x4016 base = .ok 0x00 { base with jidx := 1 } ∧
      busRead 0x8000 base = .ok 0x00 base ∧ isPort 2 0x8000 = false ∧ isPort 7 0x8000 = false ∧
      0x8000 ≤ (0x8000 : Word).toNat ∧ 0x8000 ≤ (0xFFFF : Word).toNat :=
  ⟨rfl, rfl, by decide, by decide, rfl, by decide, by decide, rfl, rfl, by decide, by decide, by decide, by decide⟩
theorem witness_ControlStatusAndOamPorts :
    isPort 0 0x2000 = true ∧ isPort 0 0x3FF8 = true ∧ isPort 1 0x2001 = true ∧ isPort 1 0x3FF9 = true ∧
      isPort 2 0x2002 = true ∧ isPort 2 0x3FFA = true ∧ isPort 3 0x2003 = true ∧ isPort 3 0x3FFB = true ∧
      isPort 4 0x2004 = true ∧ isPort 4 0x3FFC = true := by decide
theorem witness_TwoWritePortsAlternate :
    isPort 5 0x2005 = true ∧ isPort 5 0x3FFD = true ∧ isPort 6 0x2006 = true ∧ isPort 6 0x3FFE = true ∧
      base.w = false ∧ { base with w := true }.w = true := by decide
theorem witness_DataPortReadsLateAndAdvances : isPort 7 0x2007 = true ∧ isPort 7 0x3FFF = true := by decide
theorem witness_PpuMemoryHoldsWhatIsWritten :
    (base.chrRam.wf ∧ base.vram.wf ∧ base.pal.wf) ∧
      (0x5FFF % 0x4000 < 0x2000 ∧ { base with cart := { base.cart with chrBanks := 1 } }.cart.chrBanks ≠ 0) ∧
      (0x1FFF % 0x4000 < 0x2000 ∧ base.cart.chrBanks = 0) ∧
      (0x2000 ≤ 0x2000 % 0x4000 ∧ 0x3EFF % 0x4000 < 0x3F00) ∧ 0x3F00 ≤ 0x3F00 % 0x4000 ∧ 0x3F00 ≤ 0x3FFF % 0x4000 := by decide
theorem witness_RenderWritesEveryPixel : 0 < 256 ∧ 255 < 256 ∧ 0 < 240 ∧ 239 < 240 := by decide
theorem witness_RenderFollowsTheLoops : 7 < 8 ∧ base.fb.wf ∧ base.fb.below 245760 := by decide
theorem witness_RenderIgnoresEverythingElse :
    let t := { base with pc := 0x1234, mask := 0x1E, scrollX := 0x11, fb := [(0, 0x01)] }
    base.cart.chrBanks = t.cart.chrBanks ∧ base.cart.chrRom = t.cart.chrRom ∧ base.chrRam = t.chrRam ∧
      base.vram = t.vram ∧ base.pal = t.pal ∧ base.oam = t.oam ∧ base.ctrl = t.ctrl := by decide

/-- The set-up of 50_ppu.md R337. -/
theorem witness_SolidTileColoursFirstPixel :
    let s := { base with vram := [(0x000, 0x01)], chrRam := [(0x10, 0xFF)], pal := [(0x01, 0x21)] }
    s.ctrl = 0x00 ∧ (∀ k < 256, s.oam.read k = 0x00) ∧ s.vram.read 0x000 = 0x01 ∧ s.vram.read 0x3C0 = 0x00 ∧
      s.chrRead 0x10 = 0xFF ∧ s.chrRead 0x18 = 0x00 ∧ ∀ k < 16, s.chrRead k = 0x00 :=
  ⟨rfl, fun _ _ => rfl, rfl, rfl, by decide, by decide, by decide⟩
theorem witness_VBlankRaisesNmi :
    let s := { base with phase := .running .vblank }
    s.phase = .running .vblank ∧ s.status = 0x00 ∧ s.ram.wf ∧ bit s.ctrl 7 = false ∧
      bit { s with ctrl := 0x80 }.ctrl 7 = true := by decide
theorem witness_FrameStepsInOrder :
    (base.phase = .loaded ∧ base.calls = []) ∧ { base with phase := .idle }.phase = .idle ∧
      { base with phase := .running (.pre 0) }.phase = .running (.pre 0) ∧
      { base with phase := .running (.post 0) }.phase = .running (.post 0) := by decide
theorem witness_PhasesFollowTheFrameLoop : base.phase ≠ .ended ∧ { base with phase := .ended }.phase = .ended := by decide
theorem witness_FaultStopsTheFrameLoop :
    step (placed [0x02] base) = .next (ran [0x02] base) ∧ (placed [0x02] base).phase ≠ .stopped ∧
      (ran [0x02] base).phase = .stopped ∧ (ran [0x02] base).fault ≠ (placed [0x02] base).fault ∧
      step (ran [0x02] base) = .next (ran [0x02] base) := ⟨rfl, by decide, by decide, by decide, rfl⟩
theorem witness_HostCallsBetweenFrames :
    (base.phase = .loaded ∧ { base with calls := [.frame, .stop] }.calls = .frame :: [.stop]) ∧
    (base.phase = .loaded ∧ { base with calls := [.setButton .start true] }.calls = .setButton .start true :: []) ∧
      { base with phase := .idle, calls := [.stop] }.calls = .stop :: [] ∧
      { base with phase := .stopped }.phase = .stopped := by decide

/-- One byte of a rendered frame: the alpha of its first pixel. -/
theorem render_alpha (s : State) : s.render.fb.read 3 = 255 := by
  change (Memory.ofFn (s.fbByte s.drawnSprites) 0 245760).read 3 = 255
  rw [Memory.read_ofFn]
  rfl

theorem witness_RareStateChangesOnlyWhereAllowed :
    (∃ s t, step s = .next t ∧ t.fb ≠ s.fb) ∧ (∃ s t, step s = .next t ∧ t.notifications ≠ s.notifications) ∧
      ∃ s t, step s = .next t ∧ t.buttons ≠ s.buttons := by
  refine ⟨⟨{ base with phase := .running (.pre 0) }, _, rfl, fun h => ?_⟩,
    ⟨{ base with phase := .running (.post 0) }, _, rfl, by decide⟩,
    ⟨{ base with calls := [.setButton .a true] }, _, rfl, by decide⟩⟩
  have h3 := render_alpha { base with phase := .running (.pre 0) }
  rw [show State.fb (State.render { base with phase := .running (.pre 0) }) = [] from h] at h3
  exact absurd h3 (by decide)

/-- The least image the load check accepts: 16 header bytes with one program bank, and 16384 bytes. -/
def leastImage : List Byte := [0x4E, 0x45, 0x53, 0x1A, 0x01, 0x00] ++ List.replicate 16394 0x00

theorem leastImage_header : leastImage.length = 16400 ∧ leastImage.getD 4 0 = 0x01 ∧ leastImage.getD 5 0 = 0x00 := by
  refine ⟨?_, rfl, rfl⟩
  simp only [leastImage, List.length_append, List.length_replicate]
  rfl

theorem witness_MalformedImagesAreRefused :
    ([] : List Byte).length < 16 ∧
      ¬ (leastImage.length < 16 ∨ (leastImage.getD 4 0).toNat = 0 ∨
        leastImage.length < 16 + 16384 * (leastImage.getD 4 0).toNat + 8192 * (leastImage.getD 5 0).toNat) := by
  obtain ⟨h, h4, h5⟩ := leastImage_header
  rw [h, h4, h5]
  decide
theorem witness_LoadedImageIsSliced : State.load leastImage = .ok (State.powerOn (Cartridge.slice leastImage)) := by
  obtain ⟨h, h4, h5⟩ := leastImage_header
  refine if_neg ?_
  simp only [Cartridge.malformed, Cartridge.imageSize, h, h4, h5]
  decide

/-! The instructions: operands at the ends of their ranges, and a state in which every access completes. -/

theorem witness_AddressingModesResolve :
    resolve (.absolute 0x0200) base = .ok (.ea 0x0200) base ∧ busRead 0x02FF base = .ok 0x00 base ∧
      busRead (BitVec.ofNat 16 ((0x02FF : Word).toNat / 256 * 256 + ((0x02FF : Word).toNat + 1) % 256)) base = .ok 0x00 base :=
  ⟨rfl, rfl, rfl⟩
theorem witness_LoadsLoadTheOperand :
    (∀ k ∈ ([.lda, .ldx, .ldy, .lax] : List (Mode → Instr)), (k (.absolute 0x3FFA)).wf = true) ∧
      readOperand (.absolute 0x3FFA) { base with status := 0x80 } = .ok 0x80 base ∧
      readOperand (.absolute 0x4018) base = .error (.unmapped 0x4018 .read) base := ⟨by decide, rfl, rfl⟩
theorem witness_StoresStoreTheRegister :
    (∀ k ∈ ([.sta, .stx, .sty, .sax] : List (Mode → Instr)), (k (.absolute 0x1FFF)).wf = true) ∧
      resolve (.absolute 0x1FFF) { base with a := 0x01 } = .ok (.ea 0x1FFF) { base with a := 0x01 } ∧
      busWrite 0x1FFF 0x01 { base with a := 0x01 } = .ok () { base with a := 0x01, ram := [(0x7FF, 0x01)] } ∧
      resolve (.absolute 0x7FFF) base = .ok (.ea 0x7FFF) base ∧
      busWrite 0x7FFF 0x00 base = .error (.unmapped 0x7FFF .write) base :=
  ⟨by decide, rfl, rfl, rfl, rfl⟩
theorem witness_AddAndSubtract :
    (Instr.adc (.immediate 0x7F)).wf = true ∧ (Instr.sbc (.immediate 0x7F)).wf = true ∧
      readOperand (.immediate 0x7F) base = .ok 0x7F base ∧ (Instr.adc (.absolute 0x4018)).wf = true ∧
      (Instr.sbc (.absolute 0x4018)).wf = true ∧ readOperand (.absolute 0x4018) base = .error (.unmapped 0x4018 .read) base :=
  ⟨rfl, rfl, rfl, rfl, rfl, rfl⟩
theorem witness_OverflowIsSignedOverflow :
    (Instr.adc (.absoluteX 0xFFFF)).wf = true ∧ readOperand (.absoluteX 0xFFFF) { base with x := 0x01 } = .ok 0x00 { base with x := 0x01 } :=
  ⟨rfl, rfl⟩
theorem witness_LogicAndBitTest :
    (∀ k ∈ ([.and, .ora, .eor, .bit] : List (Mode → Instr)), (k (.zeropage 0xFF)).wf = true) ∧
      readOperand (.zeropage 0xFF) { base with ram := [(0xFF, 0xC0)] } = .ok 0xC0 { base with ram := [(0xFF, 0xC0)] } ∧
      (∀ k ∈ ([.and, .ora, .eor, .bit] : List (Mode → Instr)), (k (.absolute 0x4018)).wf = true) ∧
      readOperand (.absolute 0x4018) base = .error (.unmapped 0x4018 .read) base := ⟨by decide, rfl, by decide, rfl⟩
theorem witness_ComparesSetFlagsOnly :
    (∀ k ∈ ([.cmp, .cpx, .cpy] : List (Mode → Instr)), (k (.immediate 0xFF)).wf = true) ∧
      readOperand (.immediate 0xFF) base = .ok 0xFF base ∧
      (∀ k ∈ ([.cmp, .cpx, .cpy] : List (Mode → Instr)), (k (.absolute 0x4018)).wf = true) ∧
      readOperand (.absolute 0x4018) base = .error (.unmapped 0x4018 .read) base := ⟨by decide, rfl, by decide, rfl⟩
theorem witness_IncrementsAndShifts :
    (∀ k ∈ ([.inc, .dec, .asl, .lsr, .rol, .ror] : List (Mode → Instr)), (k (.absolute 0x2004)).wf = true) ∧
      resolve (.absolute 0x2004) base = .ok (.ea 0x2004) base ∧ busRead 0x2004 base = .ok 0x00 base ∧
      busWrite 0x2004 0x01 base = .ok () { base with oam := [(0, 0x01)], oamaddr := 0x01 } ∧
      (∀ v, busWrite 0x2004 v base = .ok () (base.portWrite 4 v)) ∧
      resolve (.absolute 0x4018) base = .ok (.ea 0x4018) base ∧ busRead 0x4018 base = .error (.unmapped 0x4018 .read) base :=
  ⟨by decide, rfl, rfl, rfl, fun _ => rfl, rfl, rfl⟩
theorem witness_JumpsCallsAndReturns :
    (Instr.jmp (.indirect 0x02FF)).wf = true ∧ resolveTarget (.indirect 0x02FF) base = .ok 0x0000 base ∧
      (Instr.jmp (.absolute 0x8000)).wf = true ∧ resolveTarget (.absolute 0x8000) base = .ok 0x8000 base ∧
      (Instr.jmp (.indirect 0x4017)).wf = true ∧
      resolveTarget (.indirect 0x4017) base = .error (.unmapped 0x4018 .read) base ∧ base.ram.wf :=
  ⟨rfl, rfl, rfl, rfl, rfl, rfl, by decide⟩
theorem witness_BreakAndReturnFromInterrupt : base.ram.wf := by decide
theorem witness_BranchesTestTheirFlag :
    ∀ f ∈ ([.n, .v, .c, .z] : List Flag), getFlag f base.p = false ∧ getFlag f { base with p := 0xE7 }.p = true := by decide
theorem witness_PushesAndPulls : { base with sp := 0x00 }.ram.wf := by decide
theorem witness_NopFormsOnlyRead :
    (Instr.nop 0x3C (.absoluteX 0x2002)).wf = true ∧ readOperand (.absoluteX 0x2002) { base with status := 0x80 } = .ok 0x80 base ∧
      (Instr.nop 0x0C (.absolute 0x4018)).wf = true ∧ readOperand (.absolute 0x4018) base = .error (.unmapped 0x4018 .read) base := ⟨rfl, rfl, rfl, rfl⟩
theorem witness_CombinedReadModifyWrite :
    (∀ k ∈ ([.slo, .rla, .sre, .rra, .dcp, .isc] : List (Mode → Instr)), (k (.indirectY 0xFF)).wf = true) ∧
      resolve (.indirectY 0xFF) base = .ok (.ea 0x0000) base ∧ busRead 0x0000 base = .ok 0x00 base ∧
      (∀ v, busWrite 0x0000 v base = .ok () (base.ramWrite 0x0000 v)) ∧
      (∀ k ∈ ([.slo, .rla, .sre, .rra, .dcp, .isc] : List (Mode → Instr)), (k (.absolute 0x4018)).wf = true) ∧
      resolve (.absolute 0x4018) base = .ok (.ea 0x4018) base ∧ busRead 0x4018 base = .error (.unmapped 0x4018 .read) base :=
  ⟨by decide, rfl, rfl, fun _ => rfl, by decide, rfl, rfl⟩
theorem witness_ImmediateCombinations : (0x0B : Byte) = 0x0B ∨ (0x0B : Byte) = 0x2B := by decide
theorem witness_UnmappedOperandIsRecorded :
    (∀ i ∈ ([.lda (.absolute 0x4018), .inc (.absolute 0x4018), .sta (.absolute 0x4018), .slo (.absolute 0x4018)] : List Instr),
      i.wf = true ∧ faulting i = false ∧ isJump i = false ∧ dataAddress i base = some 0x4018) ∧
      dataAddress (.lda (.absolute 0x7FFF)) base = some 0x7FFF ∧ mapped 0x4018 = false ∧ mapped 0x7FFF = false ∧
      (Instr.sta (.absolute 0x4014)).wf = true ∧ storedValue (.sta (.absolute 0x4014)) { base with a := 0x41 } = some 0x41 ∧
      storedValue (.sta (.absolute 0x4014)) { base with a := 0x7F } = some 0x7F ∧
      dataAddress (.sta (.absolute 0x4014)) base = some 0x4014 ∧ 0x41 ≤ (0x41 : Byte).toNat ∧ (0x7F : Byte).toNat ≤ 0x7F := by
  decide
theorem witness_EveryInstructionAnswersNext : (Instr.jam 0x02).wf = true ∧ (Instr.jam 0xEA).wf = false := by decide
theorem witness_EveryExecutedInstructionCompletes :
    (∀ i ∈ ([.lda (.absolute 0x4017), .inc (.absolute 0x8000), .nop 0xEA .implied, .brk, .jmp (.indirect 0x4016)] : List Instr),
      i.wf = true ∧ faulting i = false ∧ (isJump i = false → ∀ a, dataAddress i base = some a → mapped a = true) ∧
      (dataAddress i base = some 0x4014 → ∀ v, storedValue i base = some v → v.toNat < 0x40 ∨ 0x80 ≤ v.toNat) ∧
      ∀ p, i = .jmp (.indirect p) → mapped p = true ∧ p ≠ 0x4017) ∧
      (dataAddress (.sta (.absolute 0x4014)) base = some 0x4014 ∧ mapped 0x4014 = true) ∧
      (0x3F : Byte).toNat < 0x40 ∧ 0x80 ≤ (0x80 : Byte).toNat := by
  refine ⟨fun i hi => ?_, by decide, by decide, by decide⟩
  simp only [List.mem_cons, List.not_mem_nil, or_false] at hi
  rcases hi with rfl | rfl | rfl | rfl | rfl
  all_goals
    refine ⟨by decide, by decide, fun h a ha => ?_, fun h => absurd h (by decide), fun p hp => ?_⟩
    all_goals first | (cases hp; done) | (cases hp; decide) | (cases ha; done) | (cases ha; decide)
theorem witness_StackRoundTrips : base.ram.wf ∧ { base with sp := 0x00 }.ram.wf := by decide
theorem witness_RegistersNotListedAreUnchanged :
    exec (.nop 0xEA .implied) base = .next base ∧ writesA (.nop 0xEA .implied) = false ∧ writesX (.nop 0xEA .implied) = false ∧
      writesY (.nop 0xEA .implied) = false ∧ writesS (.nop 0xEA .implied) = false := ⟨rfl, rfl, rfl, rfl, rfl⟩
theorem witness_FlagsNotListedAreUnchanged :
    getFlag .r base.p = true ∧ exec .sec base = .next { base with p := 0x25 } ∧ writesFlag .sec .n = false ∧
      writesFlag .sec .v = false ∧ writesFlag .sec .r = false ∧ writesFlag .sec .b = false ∧ writesFlag .sec .d = false ∧
      writesFlag .sec .i = false ∧ writesFlag .sec .z = false ∧ writesFlag .clc .c = true := by
  exact ⟨by decide, rfl, by decide, by decide, by decide, by decide, by decide, by decide, by decide, by decide⟩
theorem witness_OtherInstructionsLeaveMemory :
    exec (.asl .accumulator) { base with a := 0x01 } = .next { base with a := 0x02 } ∧
      isStore (.asl .accumulator) = false ∧ isPush (.asl .accumulator) = false ∧
      (Instr.asl .accumulator).mode = .accumulator ∧ isReadModifyWrite (.lda (.absolute 0x2007)) = false :=
  ⟨rfl, rfl, rfl, rfl, rfl⟩

theorem witness_InvariantKeptByEveryStep :
    Inv State.reset ∧ step State.reset = .next { State.reset with phase := .running (.pre Config.preVBlankBudget) } :=
  ⟨by constructor <;> decide, rfl⟩

theorem witness_StoresLeaveOtherBytes :
    Inv base ∧ exec (.sta (.absolute 0x1FFF)) { base with a := 0x01 } = .next { base with a := 0x01, ram := [(0x7FF, 0x01)] } ∧
      Inv { base with a := 0x01 } ∧ isStore (.sta (.absolute 0x1FFF)) = true ∧
      dataAddress (.sta (.absolute 0x1FFF)) { base with a := 0x01 } = some 0x1FFF ∧
      exec (.inc (.absolute 0x2007)) base = .next (nextOf (exec (.inc (.absolute 0x2007)) base) base) ∧
      isReadModifyWrite (.inc (.absolute 0x2007)) = true ∧ dataAddress (.inc (.absolute 0x2007)) base = some 0x2007 ∧
      base.ram.wf ∧ exec .pha base = .next { base with sp := 0xFC } ∧ isPush .pha = true :=
  ⟨by constructor <;> decide, rfl, by constructor <;> decide, rfl, rfl, rfl, rfl, rfl, by decide, rfl, rfl⟩

theorem witness_InvariantHoldsAfterReset :
    State.load leastImage = .ok (State.powerOn (Cartridge.slice leastImage)) := witness_LoadedImageIsSliced

end Sys2Proof.Tests
end

/-! PROOF. The family 10_state.md: the values after reset (R39, R40), and that an instruction leaves the flags it is not listed for
(R28). -/

namespace Sys2Proof.Machine

/-! The state after reset. -/

/-- Settles O30: every field of `State.powerOn` is the listed value, and an empty memory reads as $00 everywhere. -/
theorem resetEstablishesTheListedValues : Obligations.ResetEstablishesTheListedValues := by
  intro c s
  have memories : ∀ k, s.ram.read k = 0x00 ∧ s.vram.read k = 0x00 ∧ s.pal.read k = 0x00 ∧ s.oam.read k = 0x00 ∧
      s.chrRam.read k = 0x00 ∧ s.fb.read k = 0x00 := fun k =>
    have unlisted := Memory.read_nil k
    ⟨unlisted, unlisted, unlisted, unlisted, unlisted, unlisted⟩
  have released : ∀ k < 8, s.buttons.get k = false := fun k _ => by
    change Buttons.get {} k = false
    unfold Buttons.get
    split <;> rfl
  exact ⟨rfl, rfl, rfl, rfl, rfl, rfl, rfl, memories, rfl, rfl, rfl, rfl, rfl, rfl, rfl, rfl, rfl, released, rfl, rfl, rfl⟩

/-! Combinators for a relation that the bus accesses and a write of A respect: the accumulator mode then needs no case of its
own. -/

section AccumulatorToo

variable {R : State → State → Prop} (F : AccessFrame R) (setA : ∀ v s, R s (State.setA v s))

include F setA

theorem AccessFrame.writeOp_of_setA (v : Byte) (l : Loc) : Keeps R (Machine.writeOp v l) := by
  cases l with
  | acc => exact .update (setA v)
  | imm w => exact .stop F.toFrame _
  | ea a => exact F.write a v

theorem AccessFrame.storing_of_setA (m : Mode) (source : State → Byte) : Keeps R (Machine.storing m source) :=
  .bind F.toFrame (F.resolve m) fun l => .bind F.toFrame (.look F.toFrame _) fun v => F.writeOp_of_setA setA v l

theorem AccessFrame.modifying_of_setA {β : Type} (m : Mode) (compute : Byte → State → Byte × β)
    {effect : Byte → β → State → State} (h : ∀ r b s, R s (effect r b s)) :
    Keeps R (Machine.modifying m compute effect) :=
  .bind F.toFrame (F.resolve m) fun l => .bind F.toFrame (F.readOp l) fun _ => .bind F.toFrame (.look F.toFrame _) fun r =>
    .bind F.toFrame (F.writeOp_of_setA setA r.1 l) fun _ => .update (h r.1 r.2)

end AccumulatorToo

theorem Keeps.mono {α : Type} {R R' : State → State → Prop} (h : ∀ s t, R s t → R' s t) {m : Bus α} (hm : Keeps R m) :
    Keeps R' m := fun s => h _ _ (hm s)

/-! The flags kept. -/

/-- From one state to the other no flag outside `W` changes; of the reserved bit, which every write of a whole P forces to 1
(10_state.md R26), this says that it is not lost. -/
structure FlagsKept (W : Flag → Bool) (s t : State) : Prop where
  reserved : getFlag .r s.p = true → getFlag .r t.p = true
  unlisted : ∀ f, f ≠ .r → W f = false → getFlag f t.p = getFlag f s.p

namespace FlagsKept

variable {W : Flag → Bool} {s t u : State}

theorem of_p (h : t.p = s.p) : FlagsKept W s t :=
  ⟨fun hr => h ▸ hr, fun _ _ _ => h ▸ rfl⟩

theorem trans (h : FlagsKept W s t) (h' : FlagsKept W t u) : FlagsKept W s u :=
  ⟨fun hr => h'.reserved (h.reserved hr), fun f hf hW => (h'.unlisted f hf hW).trans (h.unlisted f hf hW)⟩

/-- Where the reserved bit is 1, every flag outside `W` is unchanged, that bit included. -/
theorem getFlag_eq (h : FlagsKept W s t) (hr : getFlag .r s.p = true) {f : Flag} (hW : W f = false) :
    getFlag f t.p = getFlag f s.p := by
  by_cases hf : f = .r
  · rw [hf, hr, h.reserved hr]
  · exact h.unlisted f hf hW

theorem setA (h : FlagsKept W s t) (v : Byte) : FlagsKept W s (t.setA v) := h.trans (of_p rfl)
theorem setX (h : FlagsKept W s t) (v : Byte) : FlagsKept W s (t.setX v) := h.trans (of_p rfl)
theorem setY (h : FlagsKept W s t) (v : Byte) : FlagsKept W s (t.setY v) := h.trans (of_p rfl)

/-- A write of one flag of `W`. -/
theorem setFlag (h : FlagsKept W s t) {f : Flag} (hf : W f = true) (hr : f ≠ .r) (b : Bool) :
    FlagsKept W s (t.setFlag f b) := by
  refine h.trans ⟨fun ht => ?_, fun g _ hg => ?_⟩
  · rw [State.setFlag_p, reserved_putFlag hr, ht]
  · have hgf : g ≠ f := fun e => by rw [e, hf] at hg; cases hg
    rw [State.setFlag_p, getFlag_putFlag, if_neg hgf]

theorem setC (h : FlagsKept W s t) (hc : W .c = true) (b : Bool) : FlagsKept W s (t.setFlag .c b) :=
  h.setFlag hc (by decide) b

theorem setV (h : FlagsKept W s t) (hv : W .v = true) (b : Bool) : FlagsKept W s (t.setFlag .v b) :=
  h.setFlag hv (by decide) b

theorem setNZ (h : FlagsKept W s t) (hn : W .n = true) (hz : W .z = true) (v : Byte) : FlagsKept W s (t.setNZ v) :=
  (h.setFlag hn (by decide) _).setFlag hz (by decide) _

/-- A write of the whole of P, whose bit 5 it forces to 1, by an instruction listed for every other flag. -/
theorem setP (h : FlagsKept W s t) (hW : ∀ f, f ≠ .r → W f = true) (v : Byte) : FlagsKept W s (t.setP v) := by
  refine h.trans ⟨fun ht => (cpuOnly_setP t v).reserved ht, fun f hf hf' => ?_⟩
  rw [hW f hf] at hf'
  cases hf'

theorem logicA (h : FlagsKept W s t) (hn : W .n = true) (hz : W .z = true) (f : Byte → Byte → Byte) (v : Byte) :
    FlagsKept W s (Machine.logicA f v t) := (h.setA _).setNZ hn hz _

theorem addToA (h : FlagsKept W s t) (hn : W .n = true) (hz : W .z = true) (hv : W .v = true) (hc : W .c = true) (v : Byte) :
    FlagsKept W s (t.addToA v) := (((h.setC hc _).setV hv _).setA _).setNZ hn hz _

theorem subtractFromA (h : FlagsKept W s t) (hn : W .n = true) (hz : W .z = true) (hv : W .v = true) (hc : W .c = true)
    (v : Byte) : FlagsKept W s (t.subtractFromA v) := h.addToA hn hz hv hc (~~~ v)

theorem compare (h : FlagsKept W s t) (hn : W .n = true) (hz : W .z = true) (hc : W .c = true) (r v : Byte) :
    FlagsKept W s (t.compare r v) := ((h.setC hc _).setFlag hz (by decide) _).setFlag hn (by decide) _

theorem bitTest (h : FlagsKept W s t) (hn : W .n = true) (hz : W .z = true) (hv : W .v = true) (v : Byte) :
    FlagsKept W s (Machine.bitTest v t) := ((h.setFlag hz (by decide) _).setFlag hn (by decide) _).setV hv _

end FlagsKept

section FlagWriters

variable (W : Flag → Bool)

theorem flagsKept_refl (s : State) : FlagsKept W s s := .of_p rfl

/-- No bus access changes a flag. -/
theorem flagsKept_frame : AccessFrame (FlagsKept W) where
  refl := flagsKept_refl W
  trans _ _ _ := FlagsKept.trans
  read a := .mono (fun _ _ h => .of_p h.p) (busRead_sameCpu a)
  write a v := .mono (fun _ _ h => .of_p h.p) (busWrite_sameCpu a v)

theorem flagsKept_push (v : Byte) : Keeps (FlagsKept W) (push v) := (flagsKept_frame W).push (fun _ _ => .of_p rfl) v

theorem flagsKept_pull : Keeps (FlagsKept W) pull := (flagsKept_frame W).pull fun _ _ => .of_p rfl

theorem flagsKept_storing (m : Mode) (source : State → Byte) : Keeps (FlagsKept W) (storing m source) :=
  (flagsKept_frame W).storing_of_setA (fun _ _ => .of_p rfl) m source

theorem flagsKept_modifying {β : Type} (m : Mode) (compute : Byte → State → Byte × β) {effect : Byte → β → State → State}
    (h : ∀ r b s, FlagsKept W s (effect r b s)) : Keeps (FlagsKept W) (modifying m compute effect) :=
  (flagsKept_frame W).modifying_of_setA (fun _ _ => .of_p rfl) m compute h

theorem flagsKept_branch (f : Flag) (b : Bool) (d : Byte) : Keeps (FlagsKept W) (branch f b d) := by
  refine .update fun s => ?_
  split
  · exact .of_p rfl
  · exact flagsKept_refl W s

theorem flagsKept_discardOperand (m : Mode) : Keeps (FlagsKept W) (discardOperand m) := by
  have F := flagsKept_frame W
  cases m with
  | implied => exact .pure F.toFrame _
  | _ => exact F.reading _ fun _ s => flagsKept_refl W s

theorem flagsKept_callSubroutine (w : Word) : Keeps (FlagsKept W) (callSubroutine w) := by
  intro s
  rw [callSubroutine_eq]
  exact .of_p rfl

theorem flagsKept_returnFromSubroutine : Keeps (FlagsKept W) returnFromSubroutine := by
  intro s
  rw [returnFromSubroutine_eq]
  exact .of_p rfl

variable {W}

theorem flagsKept_returnFromTrap (hW : ∀ f, f ≠ .r → W f = true) : Keeps (FlagsKept W) returnFromTrap := by
  have F := (flagsKept_frame W).toFrame
  exact .bind F (flagsKept_pull W) fun _ => .bind F (.update fun s => (flagsKept_refl W s).setP hW _) fun _ =>
    .bind F (flagsKept_pull W) fun _ => .bind F (flagsKept_pull W) fun _ => .update fun _ => .of_p rfl

theorem flagsKept_softwareInterrupt (hi : W .i = true) : Keeps (FlagsKept W) softwareInterrupt := by
  intro s
  rw [softwareInterrupt_eq]
  exact ((flagsKept_refl W s).setFlag hi (by decide) true).trans (.of_p rfl)

end FlagWriters

/-- The lines of every instruction change only flags that R28's table lists the instruction for, run to their end or not. (The
read-modify-write cases rewrite `body` to show its `modifying` first: matching it through the definition is slow.) -/
theorem flagsKept_body (i : Instr) : Keeps (FlagsKept (writesFlag i)) (body i) := by
  have F := flagsKept_frame (writesFlag i)
  have same := flagsKept_refl (writesFlag i)
  cases i with
  | lda m => exact F.reading m fun v s => ((same s).setA v).setNZ rfl rfl v
  | ldx m => exact F.reading m fun v s => ((same s).setX v).setNZ rfl rfl v
  | ldy m => exact F.reading m fun v s => ((same s).setY v).setNZ rfl rfl v
  | lax m => exact F.reading m fun v s => (((same s).setA v).setX v).setNZ rfl rfl v
  | sta m | stx m | sty m | sax m => exact flagsKept_storing _ m _
  | txa | tya => exact .update fun s => ((same s).setA _).setNZ rfl rfl _
  | tax | tsx | inx | dex => exact .update fun s => ((same s).setX _).setNZ rfl rfl _
  | tay | iny | dey => exact .update fun s => ((same s).setY _).setNZ rfl rfl _
  | txs => exact .update fun _ => .of_p rfl
  | adc m => exact F.reading m fun v s => (same s).addToA rfl rfl rfl rfl v
  | sbc m => exact F.reading m fun v s => (same s).subtractFromA rfl rfl rfl rfl v
  | and m | ora m | eor m => exact F.reading m fun v s => (same s).logicA rfl rfl _ v
  | bit m => exact F.reading m fun v s => (same s).bitTest rfl rfl rfl v
  | cmp m | cpx m | cpy m => exact F.reading m fun v s => (same s).compare rfl rfl rfl _ v
  | inc m | dec m =>
    rw [Machine.body]
    exact flagsKept_modifying _ m _ fun r _ s => (same s).setNZ rfl rfl r
  | asl m | lsr m | rol m | ror m =>
    rw [Machine.body]
    exact flagsKept_modifying _ m _ fun r c s => ((same s).setC rfl c).setNZ rfl rfl r
  | jmp m => exact .bind F.toFrame (F.resolveTarget m) fun _ => .update fun _ => .of_p rfl
  | jsr w => exact flagsKept_callSubroutine _ w
  | rts => exact flagsKept_returnFromSubroutine _
  | rti => exact flagsKept_returnFromTrap fun f => by cases f <;> decide
  | brk => exact flagsKept_softwareInterrupt rfl
  | bpl d | bmi d | bvc d | bvs d | bcc d | bcs d | bne d | beq d => exact flagsKept_branch _ _ _ d
  | pha | php => exact .bind F.toFrame (.look F.toFrame _) fun _ => flagsKept_push _ _
  | pla => exact .bind F.toFrame (flagsKept_pull _) fun v => .update fun s => ((same s).setA v).setNZ rfl rfl v
  | plp =>
    exact .bind F.toFrame (flagsKept_pull _) fun v => .update fun s => (same s).setP (fun f => by cases f <;> decide) v
  | clc | sec | cli | sei | cld | sed | clv => exact .update fun s => (same s).setFlag rfl (by decide) _
  | nop op m => exact flagsKept_discardOperand _ m
  | slo m | rla m | sre m =>
    rw [Machine.body]
    exact flagsKept_modifying _ m _ fun r c s => ((same s).setC rfl c).logicA rfl rfl _ r
  | rra m =>
    rw [Machine.body]
    exact flagsKept_modifying _ m _ fun r c s => ((same s).setC rfl c).addToA rfl rfl rfl rfl r
  | dcp m =>
    rw [Machine.body]
    exact flagsKept_modifying _ m _ fun r _ s => (same s).compare rfl rfl rfl s.a r
  | isc m =>
    rw [Machine.body]
    exact flagsKept_modifying _ m _ fun r _ s => (same s).subtractFromA rfl rfl rfl rfl r
  | anc op v => exact F.reading _ fun v s => ((same s).logicA rfl rfl _ v).setC rfl _
  | alr v => exact F.reading _ fun _ s => (((same s).setA _).setC rfl _).setNZ rfl rfl _
  | arr v => exact F.reading _ fun _ s => ((((same s).setA _).setNZ rfl rfl _).setC rfl _).setV rfl _
  | sbx v => exact F.reading _ fun _ s => (((same s).setC rfl _).setX _).setNZ rfl rfl _
  | usbc v => exact F.reading _ fun v s => (same s).subtractFromA rfl rfl rfl rfl v
  | jam _ | ane | lxa | sha _ | shx | shy | tas | las => exact .stop F.toFrame _

/-- Settles O55: an instruction ends in the state its lines leave or in that state with a fault recorded, which leaves P; and its
lines change only flags it is listed for. -/
theorem flagsNotListedAreUnchanged : Obligations.FlagsNotListedAreUnchanged := by
  intro i s t f hr h hf
  rw [exec_eq] at h
  obtain ⟨-, hb | ⟨cls, u, op, pc, c, hb, rfl⟩⟩ := perform_next h
  · exact ((flagsKept_body i).ok hb).getFlag_eq hr hf
  · rw [State.recordFault_p]
    exact ((flagsKept_body i).error hb).getFlag_eq hr hf

end Sys2Proof.Machine

/-! PROOF. The family 20_memory.md: the CPU bus and its devices (R70 to R81, R95), and the load check (R87). -/

namespace Sys2Proof.Machine

/-! The ranges of the address map between the PPU ports and program-ROM. -/

section AudioAndJoystick

variable (s : State)

/-- From $4000 to $4017 only the joystick answers with state of its own: every other address reads as $00 (R74, R75). -/
theorem busRead_audio {a : Word} (h : 0x4000 ≤ a.toNat) (h' : a.toNat ≤ 0x4017) (hj : a ≠ 0x4016) :
    busRead a s = .ok 0x00 s := by
  rw [busRead, if_neg (by bv_omega), if_neg (by bv_omega)]
  by_cases hd : a = 0x4014
  · rw [if_pos hd]
    rfl
  · rw [if_neg hd, if_neg hj, if_pos (by bv_omega)]
    rfl

theorem busWrite_audio {a : Word} (h : 0x4000 ≤ a.toNat) (h' : a.toNat ≤ 0x4017) (hd : a ≠ 0x4014) (hj : a ≠ 0x4016)
    (v : Byte) : busWrite a v s = .ok () s := by
  rw [busWrite, if_neg (by bv_omega), if_neg (by bv_omega), if_neg hd, if_neg hj, if_pos (by bv_omega)]
  rfl

theorem busRead_joystick : busRead 0x4016 s = .ok (joyRead s).1 (joyRead s).2 := rfl
theorem busWrite_joystick (v : Byte) : busWrite 0x4016 v s = .ok () { s with jidx := 0 } := rfl
theorem busWrite_dma (v : Byte) : busWrite 0x4014 v s = oamDma v s := rfl

end AudioAndJoystick

theorem mapped_eq_false_iff (a : Word) : mapped a = false ↔ 0x4018 ≤ a.toNat ∧ a.toNat ≤ 0x7FFF := by
  rw [← Bool.not_eq_true, mapped_iff]
  omega

theorem holdsCode_iff (a : Word) : holdsCode a = true ↔ a.toNat ≤ 0x1FFF ∨ 0x8000 ≤ a.toNat := by
  simp [holdsCode, BitVec.le_def]

/-- Settles O9: one clause of the address map for each range, by the lemma about the bus in that range. -/
theorem busFollowsTheAddressMap : Obligations.BusFollowsTheAddressMap := by
  intro a v s
  refine ⟨fun h => ?ram, fun ⟨h, h'⟩ => ?ports, fun h => ?dma, fun h => ?joystick, fun ⟨h, h', hd, hj⟩ => ?audio,
    fun h => ?hole, fun h => ?mapper⟩
  case ram =>
    have ha : a ≤ 0x1FFF := by bv_omega
    exact ⟨busRead_ram s ha, busWrite_ram s ha v⟩
  case ports =>
    have ha : isPort (a.toNat % 8) a = true := (isPort_iff _ a).mpr ⟨h, h', rfl⟩
    exact ⟨busRead_isPort s ha, busWrite_isPort s ha v⟩
  case dma =>
    subst h
    exact ⟨rfl, busWrite_dma s v⟩
  case joystick =>
    subst h
    exact ⟨busRead_joystick s, busWrite_joystick s v⟩
  case audio => exact ⟨busRead_audio s h h' hj, busWrite_audio s h h' hd hj v⟩
  case hole =>
    have ha : mapped a = false := (mapped_eq_false_iff a).mpr h
    exact ⟨busRead_unmapped s ha, busWrite_unmapped s ha v⟩
  case mapper =>
    have ha : 0x8000 ≤ a := by bv_omega
    exact ⟨busRead_mapper s ha, busWrite_mapper s ha v⟩

/-- Settles O10: both accesses reach the RAM byte at their address modulo $0800, so the claim is RAM's read after write. -/
theorem ramMirrorsShareStorage : Obligations.RamMirrorsShareStorage := by
  intro s a b v hwf ha hb
  refine ⟨s.ramWrite a v, busWrite_ram s (by bv_omega) v, ?_⟩
  rw [busRead_ram _ (by bv_omega)]
  change EStateM.Result.ok ((s.ram.write (a.toNat % 0x800) v).read (b.toNat % 0x800)) _ = _
  rw [Memory.read_write hwf]
  simp only [eq_comm]

/-! OAM-DMA as the loop of R73, and what its copies leave in OAM. -/

/-- Copy `i` of `OamDma(v)`: one read through the dispatcher and one OAM write, at OAMADDR plus `i` modulo 256 (R73). -/
def dmaCopy (v : Byte) (i : Nat) : Bus Unit := do
  let b ← busRead (BitVec.ofNat 16 (v.toNat * 256 + i))
  update fun s => { s with oam := s.oam.write ((s.oamaddr.toNat + i) % 256) b }

theorem word_ofNat (v : Byte) {i : Nat} (hi : i < 256) : word v (BitVec.ofNat 8 i) = BitVec.ofNat 16 (v.toNat * 256 + i) := by
  apply BitVec.eq_of_toNat_eq
  have := v.isLt
  rw [word_toNat, BitVec.toNat_ofNat, BitVec.toNat_ofNat]
  omega

/-- The last `n` copies are the loop over the last `n` numbers below 256. -/
theorem oamDmaFrom_eq (v : Byte) {n : Nat} (hn : n ≤ 256) : oamDmaFrom v n = forM (List.range' (256 - n) n) (dmaCopy v) := by
  induction n with
  | zero => rfl
  | succ n ih =>
    have hstart : 256 - (n + 1) = 255 - n := by omega
    have hrest : 255 - n + 1 = 256 - n := by omega
    rw [List.range'_succ, List.forM_cons, hstart, hrest, ← ih (by omega), oamDmaFrom, dmaCopy, bind_assoc,
      word_ofNat v (by omega)]

/-- OAM-DMA is R73's loop. -/
theorem busWrite_dma_eq_loop (v : Byte) (s : State) : busWrite 0x4014 v s = forM (List.range 256) (dmaCopy v) s := by
  rw [busWrite_dma, oamDma, oamDmaFrom_eq v le_rfl, List.range_eq_range']

/-- `m` is `old` with its bytes from `base` on, modulo 256, replaced by the first `n` bytes of `f`. -/
structure Memory.Copied (old : Memory) (base : Nat) (f : Nat → Byte) (n : Nat) (m : Memory) : Prop where
  wf : m.wf
  read : ∀ k < 256, m.read ((base + k) % 256) = if k < n then f k else old.read ((base + k) % 256)

theorem Memory.Copied.zero {m : Memory} (h : m.wf) (base : Nat) (f : Nat → Byte) : Copied m base f 0 m :=
  ⟨h, fun k _ => (if_neg (Nat.not_lt_zero k)).symm⟩

/-- One copy more: below 256 no byte is replaced twice. -/
theorem Memory.Copied.succ {old m : Memory} {base : Nat} {f : Nat → Byte} {n : Nat} (h : Copied old base f n m) (hn : n < 256) :
    Copied old base f (n + 1) (m.write ((base + n) % 256) (f n)) := by
  refine ⟨write_wf h.wf _ _, fun k hk => ?_⟩
  have hslot : (base + k) % 256 = (base + n) % 256 ↔ k = n := by omega
  rw [read_write h.wf, h.read k hk]
  simp only [hslot]
  by_cases he : k = n
  · rw [if_pos he, if_pos (by omega), he]
  · have hlt : k < n + 1 ↔ k < n := by omega
    simp only [if_neg he, hlt]

/-- The loop's first `n` copies, where each read `i` answers `f i` and moves JIDX at most, whatever OAM holds by then: OAM takes
the bytes read. -/
theorem dmaCopies_ok {v : Byte} {s : State} {f : Nat → Byte} {j : Nat → Fin 9} (hwf : s.oam.wf) (h0 : j 0 = s.jidx) {n : Nat}
    (hn : n ≤ 256)
    (read : ∀ i < n, ∀ m, busRead (BitVec.ofNat 16 (v.toNat * 256 + i)) { s with oam := m, jidx := j i } =
      .ok (f i) { s with oam := m, jidx := j (i + 1) }) :
    ∃ m, forM (List.range n) (dmaCopy v) s = .ok () { s with oam := m, jidx := j n } ∧ s.oam.Copied s.oamaddr.toNat f n m := by
  induction n with
  | zero => exact ⟨s.oam, by rw [h0]; rfl, .zero hwf _ _⟩
  | succ n ih =>
    obtain ⟨m, hloop, hm⟩ := ih (by omega) fun i hi => read i (by omega)
    refine ⟨_, ?_, hm.succ hn⟩
    rw [List.range_succ, List.forM_append, bind_ok hloop, List.forM_cons, dmaCopy, bind_assoc, bind_ok (read n (by omega) m)]
    rfl

/-- The loop ends at the first read that does not complete, in the state that read left. -/
theorem busWrite_dma_error {v : Byte} {s t u : State} {c : Stop} {n : Nat} (hn : n < 256)
    (before : forM (List.range n) (dmaCopy v) s = .ok () t)
    (read : busRead (BitVec.ofNat 16 (v.toNat * 256 + n)) t = .error c u) : busWrite 0x4014 v s = .error c u := by
  obtain ⟨r, hr⟩ : ∃ r, 256 = n + (r + 1) := ⟨255 - n, by omega⟩
  have hloop : List.range 256 = List.range n ++ n :: List.range' (n + 1) r := by
    rw [hr, List.range_eq_range', List.range_eq_range', ← List.range'_append_1, Nat.zero_add, List.range'_succ]
  rw [busWrite_dma_eq_loop, hloop, List.forM_append, bind_ok before, List.forM_cons, dmaCopy, bind_assoc, bind_error read]

/-- From a page of RAM or program-ROM, OAM-DMA copies the stored bytes. -/
theorem busWrite_dma_stored (v : Byte) (s : State) (hwf : s.oam.wf) (hv : v.toNat < 0x20 ∨ 0x80 ≤ v.toNat) :
    ∃ m, busWrite 0x4014 v s = .ok () { s with oam := m } ∧
      s.oam.Copied s.oamaddr.toNat (fun k => storedByte s (BitVec.ofNat 16 (v.toNat * 256 + k))) 256 m := by
  rw [busWrite_dma_eq_loop]
  refine dmaCopies_ok (j := fun _ => s.jidx) hwf rfl le_rfl fun i hi m => ?_
  have hcode : holdsCode (BitVec.ofNat 16 (v.toNat * 256 + i)) = true := by
    have := v.isLt
    rw [holdsCode_iff, BitVec.toNat_ofNat]
    omega
  exact busRead_stored _ hcode

/-- From a page of the hole in the address map, OAM-DMA stops at its first read. -/
theorem busWrite_dma_unmapped (v : Byte) (s : State) (h : 0x41 ≤ v.toNat) (h' : v.toNat ≤ 0x7F) :
    busWrite 0x4014 v s = .error (.unmapped (BitVec.ofNat 16 (v.toNat * 256)) .read) s := by
  have hole : mapped (BitVec.ofNat 16 (v.toNat * 256)) = false := by
    rw [mapped_eq_false_iff, BitVec.toNat_ofNat]
    omega
  have hread := busRead_unmapped s hole
  rw [← Nat.add_zero (v.toNat * 256)] at hread ⊢
  exact busWrite_dma_error (by decide) rfl hread

/-- The joystick neither reads nor changes OAM. -/
theorem joyRead_setOam (s : State) (m : Memory) :
    joyRead { s with oam := m } = ((joyRead s).1, { s with oam := m, jidx := (joyRead s).2.jidx }) := by
  unfold joyRead
  dsimp only
  split <;> rfl

/-- Read `i` of the OAM-DMA from page $40, before it meets the hole: an audio port's $00 or, at $4016, the joystick's bit, which
moves JIDX once. -/
theorem busRead_dma_joystick (s : State) {i : Nat} (hi : i < 0x18) (m : Memory) :
    busRead (BitVec.ofNat 16 ((0x40 : Byte).toNat * 256 + i))
      { s with oam := m, jidx := if i ≤ 0x16 then s.jidx else (joyRead s).2.jidx } =
        .ok (if i = 0x16 then (joyRead s).1 else 0x00)
          { s with oam := m, jidx := if i + 1 ≤ 0x16 then s.jidx else (joyRead s).2.jidx } := by
  by_cases hj : i = 0x16
  · subst hj
    change busRead 0x4016 { s with oam := m } = _
    rw [busRead_joystick, joyRead_setOam]
    rfl
  · have ha : (BitVec.ofNat 16 ((0x40 : Byte).toNat * 256 + i)).toNat = 0x4000 + i := by
      rw [BitVec.toNat_ofNat]
      change (0x40 * 256 + i) % 65536 = _
      omega
    have hnext : i + 1 ≤ 0x16 ↔ i ≤ 0x16 := by omega
    rw [busRead_audio _ (by omega) (by omega) (by bv_omega)]
    simp only [hj, hnext, if_false]

/-- From page $40, OAM-DMA stops at $4018, after 24 copies. -/
theorem busWrite_dma_joystick (s : State) (hwf : s.oam.wf) :
    ∃ m, busWrite 0x4014 0x40 s = .error (.unmapped 0x4018 .read) { s with oam := m, jidx := (joyRead s).2.jidx } ∧
      s.oam.Copied s.oamaddr.toNat (fun k => if k = 0x16 then (joyRead s).1 else 0x00) 0x18 m := by
  obtain ⟨m, hloop, hm⟩ := dmaCopies_ok hwf rfl (by decide) fun i hi m => busRead_dma_joystick s hi m
  exact ⟨m, busWrite_dma_error (by decide) hloop (busRead_unmapped _ (by decide)), hm⟩

/-- From one state to the other OAMADDR does not change. -/
def SameOamaddr (s t : State) : Prop := t.oamaddr = s.oamaddr

theorem sameOamaddr_frame : Frame SameOamaddr := ⟨fun _ => rfl, fun _ _ _ h h' => h'.trans h⟩

theorem busRead_sameOamaddr (a : Word) : Keeps SameOamaddr (busRead a) := by
  refine busRead_keeps sameOamaddr_frame (fun n s => ?_) (fun s => ?_) a
  · unfold State.portRead
    split
    · rfl
    · rfl
    · exact (congrArg State.oamaddr (dataRead_frame s)).trans rfl
    · rfl
  · exact (congrArg State.oamaddr (joyRead_frame s)).trans rfl

theorem busWrite_dma_sameOamaddr (v : Byte) : Keeps SameOamaddr (busWrite 0x4014 v) :=
  oamDmaFrom_keeps sameOamaddr_frame busRead_sameOamaddr (fun _ _ _ _ => rfl) v 256

/-- Settles O12: the loop of R73, and what it comes to from each kind of page. -/
theorem oamDmaCopiesThroughTheBus : Obligations.OamDmaCopiesThroughTheBus := by
  refine ⟨fun v s => ?loop, fun v s hwf hv => ?stored, busWrite_dma_unmapped, fun s hwf => ?joystick, fun v s => ?oamaddr⟩
  case loop =>
    rw [busWrite_dma_eq_loop, ← List.forM_eq_forM]
    rfl
  case stored =>
    obtain ⟨m, hrun, hm⟩ := busWrite_dma_stored v s hwf hv
    exact ⟨_, hrun, rfl, fun k hk => (hm.read k hk).trans (if_pos hk)⟩
  case joystick =>
    obtain ⟨m, hrun, hm⟩ := busWrite_dma_joystick s hwf
    refine ⟨_, hrun, rfl, fun k hk => (hm.read k hk).trans ?_⟩
    by_cases hj : k = 0x16
    · simp only [hj, if_true]
      rfl
    · simp only [if_neg hj]
  case oamaddr =>
    have h := busWrite_dma_sameOamaddr v s
    cases hr : busWrite 0x4014 v s with
    | ok _ t => rwa [hr] at h
    | error _ t => rwa [hr] at h

/-! The joystick. -/

/-- What read number `k` after a strobe gives: button `k` in the serial order, then $01 for ever (R76). -/
def serialByte (b : Buttons) (k : Nat) : Byte :=
  ([b.a, b.b, b.select, b.start, b.up, b.down, b.left, b.right].map fun pressed => if pressed then (0x01 : Byte) else 0x00).getD
    k 0x01

/-- JIDX after `k` reads from the strobe. -/
def serialIndex (k : Nat) : Fin 9 := ⟨min k 8, by omega⟩

theorem joyRead_serial (s : State) (k : Nat) :
    joyRead { s with jidx := serialIndex k } = (serialByte s.buttons k, { s with jidx := serialIndex (k + 1) }) := by
  by_cases hk : k < 8
  · interval_cases k <;> rfl
  · have hend : ∀ j, 8 ≤ j → serialIndex j = 8 := fun j hj => Fin.ext (Nat.min_eq_right hj)
    have hbyte : serialByte s.buttons k = 0x01 := List.getD_eq_default _ _ (by simpa using hk)
    rw [hend k (by omega), hend (k + 1) (by omega), hbyte]
    rfl

/-- `n` reads that begin as read number `k` after the strobe. -/
theorem readTimes_serial (s : State) (n k : Nat) :
    readTimes 0x4016 n { s with jidx := serialIndex k } =
      .ok ((List.range n).map fun i => serialByte s.buttons (k + i)) { s with jidx := serialIndex (k + n) } := by
  induction n generalizing k with
  | zero => rfl
  | succ n ih =>
    have hread := busRead_joystick { s with jidx := serialIndex k }
    rw [joyRead_serial] at hread
    rw [readTimes, bind_ok hread, bind_ok (ih (k + 1)), List.range_succ_eq_map, List.map_cons, List.map_map, pure_run]
    simp only [Function.comp_def, Nat.add_zero, Nat.succ_eq_add_one, Nat.add_right_comm k 1, Nat.add_assoc]

/-- Settles O14: the reads from JIDX 0 on, one after another. -/
theorem joystickSerialisesTheButtons : Obligations.JoystickSerialisesTheButtons := by
  intro s v n
  have hreads := readTimes_serial s n 0
  simp only [Nat.zero_add] at hreads
  exact ⟨busWrite_joystick s v, _, hreads, rfl, rfl⟩

/-! The load check. -/

theorem malformed_iff (img : List Byte) :
    Cartridge.malformed img = true ↔ img.length < 16 ∨ (img.getD 4 0).toNat = 0 ∨
      img.length < 16 + 16384 * (img.getD 4 0).toNat + 8192 * (img.getD 5 0).toNat := by
  have hzero : img.getD 4 0 = 0 ↔ (img.getD 4 0).toNat = 0 := ⟨fun h => by rw [h]; rfl, fun h => BitVec.eq_of_toNat_eq h⟩
  simp only [Cartridge.malformed, Bool.or_eq_true, beq_iff_eq, hzero, decide_eq_true_eq, or_assoc]
  rfl

/-- Settles O31: `State.load` branches on the check, and the check is R87's condition. -/
theorem malformedImagesAreRefused : Obligations.MalformedImagesAreRefused := by
  intro img prgBanks chrBanks bad
  have hcheck : Cartridge.malformed img = true ↔ bad := malformed_iff img
  exact ⟨fun h => if_pos (hcheck.mpr h), fun h => if_neg (mt hcheck.mp h)⟩

end Sys2Proof.Machine

/-! PROOF. The family 41_load_store_transfer.md: loads, stores and register instructions (R150 to R161, R183 to R186, R265, R266).
The rules for an encoding, a read instruction and a store are about any constructor that takes a mode. -/

namespace Sys2Proof.Machine

/-! The rules for an instruction of each shape. -/

/-- An instruction whose opcode is looked up by its mode encodes as its list says. -/
theorem encodesAs_of_opcodeIn {k : Mode → Instr} {codes : List (AddrMode × Byte)} (opcode : ∀ m, (k m).opcode = m.opcodeIn codes)
    (mode : ∀ m, (k m).mode = m) : EncodesAs k codes := by
  intro m
  rw [encode, opcode, mode, Mode.opcodeIn]
  cases codes.lookup m.addrMode <;> rfl

theorem reads_of_body {k : Mode → Instr} {op effect : Byte → State → State} (lines : ∀ m, body (k m) = reading m op)
    (same : ∀ v t, op v t = effect v t) : Reads k effect := by
  intro m s t hwf
  refine ⟨fun v hread => ?completes, fun a access hread => ?stops⟩
  case completes =>
    rw [← same]
    exact exec_ok hwf (by rw [lines, reading_ok hread])
  case stops => exact stopsUnmapped_of_body hwf (by rw [lines, reading_error hread])

theorem stores_of_body {k : Mode → Instr} {source : State → Byte} (lines : ∀ m, body (k m) = storing m source) :
    Stores k source := by
  intro m s a t hwf hresolve
  have run : body (k m) s = busWrite a (source s) s := by rw [lines, storing_ea hresolve]
  exact ⟨fun hwrite => exec_ok hwf (run.trans hwrite), fun b access hwrite => stopsUnmapped_of_body hwf (run.trans hwrite)⟩

/-- An instruction whose lines end with `setNZ(v)` on state `t`, in one record update. -/
theorem exec_setNZ (t : State) (v : Byte) {i : Instr} {s : State} (hi : i.wf = true) (h : body i s = .ok () (t.setNZ v)) :
    exec i s = .next { t with p := withNZ v t.p } := by
  rw [← State.setNZ_eq]
  exact exec_ok hi h

theorem ofNat_increment (v : Byte) : BitVec.ofNat 8 ((v.toNat + 1) % 256) = v + 1 := by bv_omega

theorem ofNat_decrement (v : Byte) : BitVec.ofNat 8 ((v.toNat + 255) % 256) = v - 1 := by bv_omega

/-! The obligations. -/

/-- Settles O34: each load is a read instruction whose effect is its register's write and `setNZ`. -/
theorem loadsLoadTheOperand : Obligations.LoadsLoadTheOperand := by
  refine ⟨?ldaCodes, ?ldxCodes, ?ldyCodes, ?laxCodes, ?lda, ?ldx, ?ldy, ?lax⟩
  case ldaCodes | ldxCodes | ldyCodes | laxCodes => exact encodesAs_of_opcodeIn (fun _ => rfl) fun _ => rfl
  case lda => exact reads_of_body (fun _ => rfl) fun v t => State.setNZ_eq v (t.setA v)
  case ldx => exact reads_of_body (fun _ => rfl) fun v t => State.setNZ_eq v (t.setX v)
  case ldy => exact reads_of_body (fun _ => rfl) fun v t => State.setNZ_eq v (t.setY v)
  case lax => exact reads_of_body (fun _ => rfl) fun v t => State.setNZ_eq v ((t.setA v).setX v)

/-- Settles O35: each store's lines are `storing`, which is one bus write from the state its mode resolved in. -/
theorem storesStoreTheRegister : Obligations.StoresStoreTheRegister := by
  refine ⟨?staCodes, ?stxCodes, ?styCodes, ?saxCodes, ?sta, ?stx, ?sty, ?sax⟩
  case staCodes | stxCodes | styCodes | saxCodes => exact encodesAs_of_opcodeIn (fun _ => rfl) fun _ => rfl
  case sta | stx | sty | sax => exact stores_of_body fun _ => rfl

/-- Settles O36: a register write, with `setNZ` of the byte written for all but TXS. -/
theorem registerInstructions : Obligations.RegisterInstructions := by
  refine ⟨rfl, rfl, rfl, rfl, rfl, rfl, rfl, rfl, rfl, rfl, fun s => ?_⟩
  simp only [ofNat_increment, ofNat_decrement]
  refine ⟨?tax, ?tay, ?txa, ?tya, ?tsx, ?txs, ?inx, ?iny, ?dex, ?dey⟩
  case tax => exact exec_setNZ (s.setX s.a) s.a rfl rfl
  case tay => exact exec_setNZ (s.setY s.a) s.a rfl rfl
  case txa => exact exec_setNZ (s.setA s.x) s.x rfl rfl
  case tya => exact exec_setNZ (s.setA s.y) s.y rfl rfl
  case tsx => exact exec_setNZ (s.setX s.sp) s.sp rfl rfl
  case txs => exact exec_ok rfl rfl
  case inx => exact exec_setNZ (s.setX (s.x + 1)) (s.x + 1) rfl rfl
  case iny => exact exec_setNZ (s.setY (s.y + 1)) (s.y + 1) rfl rfl
  case dex => exact exec_setNZ (s.setX (s.x - 1)) (s.x - 1) rfl rfl
  case dey => exact exec_setNZ (s.setY (s.y - 1)) (s.y - 1) rfl rfl

end Sys2Proof.Machine

/-! PROOF. The family 42_arith_logic.md: arithmetic, logic, compares, increments and the shifts (R170 to R182, R200 to R204, R273).
To the rules of the families before it adds those for any read-modify-write instruction and for any shift or rotate. -/

namespace Sys2Proof.Machine

/-! The closed forms of the operations that have none yet. -/

/-- A bitwise operation into A in one record update. -/
theorem logicA_eq (f : Byte → Byte → Byte) (v : Byte) (s : State) :
    logicA f v s = { s with a := f s.a v, p := withNZ (f s.a v) s.p } := State.setNZ_eq _ _

/-- BIT in one record update, flag by flag (R177). -/
theorem bitTest_eq (v : Byte) (s : State) :
    bitTest v s = { s with p := (s.p &&& 0x3D) ||| flagBits (bit v 7) (bit v 6) (s.a &&& v == 0) false } := by
  have hp : putFlag .v (bit v 6) (putFlag .n (bit v 7) (putFlag .z (s.a &&& v == 0) s.p)) =
      (s.p &&& 0x3D) ||| flagBits (bit v 7) (bit v 6) (s.a &&& v == 0) false := by
    apply byte_ext
    intro f
    rw [getFlag_or, getFlag_and, getFlag_flagBits]
    cases f <;> simp [getFlag_putFlag] <;> simp [getFlag, Flag.bit, bit]
  exact congrArg (fun p => { s with p := p }) hp

/-! The shifter in numbers (R200). -/

theorem shiftLeft_eq_ofNat (v : Byte) : v <<< 1 = BitVec.ofNat 8 (2 * v.toNat % 256) := by bv_omega

theorem shiftRight_eq_ofNat (v : Byte) : v >>> 1 = BitVec.ofNat 8 (v.toNat / 2) := by bv_omega

/-- The carry enters at bit 0, which a left shift leaves clear. -/
theorem shiftLeft_or_carry (v : Byte) (c : Bool) :
    (v <<< 1) ||| (if c then 0x01 else 0x00) = BitVec.ofNat 8 (2 * v.toNat % 256 + c.toNat) := by
  cases c with
  | false => exact (BitVec.or_zero).trans (shiftLeft_eq_ofNat v)
  | true =>
    have clear : (v <<< 1) &&& 0x01 = 0 := BitVec.and_one_eq_setWidth_ofBool_getLsbD.trans (by simp)
    rw [if_pos rfl, Bool.toNat_true, ← BitVec.add_eq_or_of_and_eq_zero _ _ clear]
    bv_omega

/-- The carry enters at bit 7, which a right shift leaves clear. -/
theorem shiftRight_or_carry (v : Byte) (c : Bool) :
    (v >>> 1) ||| (if c then 0x80 else 0x00) = BitVec.ofNat 8 (v.toNat / 2 + 128 * c.toNat) := by
  cases c with
  | false => exact (BitVec.or_zero).trans (shiftRight_eq_ofNat v)
  | true =>
    have clear : (v >>> 1) &&& 0x80 = 0 := (BitVec.and_twoPow (v >>> 1) 7).trans (by simp)
    rw [if_pos rfl, Bool.toNat_true, ← BitVec.add_eq_or_of_and_eq_zero _ _ clear]
    bv_omega

theorem shl_eq (v : Byte) : shl v = (BitVec.ofNat 8 (2 * v.toNat % 256), bit v 7) := by rw [shl, shiftLeft_eq_ofNat]

theorem shr_eq (v : Byte) : shr v = (BitVec.ofNat 8 (v.toNat / 2), bit v 0) := by rw [shr, shiftRight_eq_ofNat]

theorem rol_eq (v : Byte) (s : State) : rol v (s.flag .c) = (BitVec.ofNat 8 (2 * v.toNat % 256 + carryOf s), bit v 7) := by
  rw [rol, shiftLeft_or_carry]
  rfl

theorem ror_eq (v : Byte) (s : State) : ror v (s.flag .c) = (BitVec.ofNat 8 (v.toNat / 2 + 128 * carryOf s), bit v 0) := by
  rw [ror, shiftRight_or_carry]
  rfl

/-! The rules for an instruction of each shape. -/

theorem modifies_of_body {β : Type} {k : Mode → Instr} {compute : Byte → State → Byte × β} {op : Byte → β → State → State}
    {result : Byte → State → Byte} {effect : Byte → Byte → State → State} (lines : ∀ m, body (k m) = modifying m compute op)
    (computed : ∀ v t, (compute v t).1 = result v t)
    (same : ∀ v t u, op (result v t) (compute v t).2 u = effect v (result v t) u) : Modifies k result effect := by
  intro m s a t hwf hresolve
  refine ⟨fun v u hread hwrite => ?completes, fun b access hread => ?stops⟩
  case completes =>
    rw [← computed] at hwrite
    rw [← same v t, ← computed]
    exact exec_ok hwf (by rw [lines, modifying_ea hresolve hread compute op hwrite])
  case stops => exact stopsUnmapped_of_body hwf (by rw [lines, modifying_ea_error hresolve hread])

/-- An instruction that replaces a byte of memory by a function of it, with `setNZ` of the byte written. -/
theorem modifies_of_setNZ {k : Mode → Instr} {f result : Byte → Byte}
    (lines : ∀ m, body (k m) = modifying m (fun v _ => (f v, ())) fun r _ s => s.setNZ r) (computed : ∀ v, f v = result v) :
    Modifies k (fun v _ => result v) fun _ r u => { u with p := withNZ r u.p } :=
  modifies_of_body lines (fun v _ => computed v) fun v _ u => State.setNZ_eq (result v) u

section Shifts

variable {k : Mode → Instr} {shift : Byte → State → Byte × Bool} {result : Byte → State → Byte} {out : Byte → Bool}

/-- A shift or rotate of memory. -/
theorem modifies_of_shift (lines : ∀ m, body (k m) = modifying m shift shiftFlags)
    (shifted : ∀ v t, shift v t = (result v t, out v)) :
    Modifies k result fun v r u => { u with p := withNZC r (out v) u.p } := by
  refine modifies_of_body lines (fun v t => ?computed) fun v t u => ?same
  case computed => rw [shifted]
  case same =>
    rw [shifted]
    exact State.setC_setNZ_eq _ _ _

/-- A shift or rotate of A, without a bus access. -/
theorem exec_shift_accumulator (lines : ∀ m, body (k m) = modifying m shift shiftFlags)
    (shifted : ∀ v t, shift v t = (result v t, out v)) (hwf : (k .accumulator).wf = true) (s : State) :
    exec (k .accumulator) s = .next { s with a := result s.a s, p := withNZC (result s.a s) (out s.a) s.p } := by
  have run : body (k .accumulator) s = .ok () (shiftFlags (result s.a s) (out s.a) (s.setA (result s.a s))) := by
    rw [lines, modifying_accumulator, shifted]
  rw [exec_ok hwf run, shiftFlags, State.setC_setNZ_eq]
  rfl

end Shifts

/-! The obligations. -/

/-- Settles O37: ADC and SBC are read instructions, and USBC is SBC's effect on its own operand byte. -/
theorem addAndSubtract : Obligations.AddAndSubtract := by
  refine ⟨?adcCodes, ?sbcCodes, ?adc, ?sbc, fun v s => ⟨rfl, ?usbc⟩⟩
  case adcCodes | sbcCodes => exact encodesAs_of_opcodeIn (fun _ => rfl) fun _ => rfl
  case adc => exact reads_of_body (fun _ => rfl) State.addToA_eq
  case sbc => exact reads_of_body (fun _ => rfl) State.subtractFromA_eq
  case usbc =>
    rw [← State.subtractFromA_eq]
    exact exec_ok rfl (reading_ok readOperand_immediate _)

/-- Settles O39: AND, ORA and EOR are one operation into A; BIT writes three flags. -/
theorem logicAndBitTest : Obligations.LogicAndBitTest := by
  refine ⟨?andCodes, ?oraCodes, ?eorCodes, ?bitCodes, ?and, ?ora, ?eor, ?bit⟩
  case andCodes | oraCodes | eorCodes | bitCodes => exact encodesAs_of_opcodeIn (fun _ => rfl) fun _ => rfl
  case and | ora | eor => exact reads_of_body (fun _ => rfl) (logicA_eq _)
  case bit => exact reads_of_body (fun _ => rfl) bitTest_eq

/-- Settles O40: each compare is `Compare` of its register. -/
theorem comparesSetFlagsOnly : Obligations.ComparesSetFlagsOnly := by
  refine ⟨?cmpCodes, ?cpxCodes, ?cpyCodes, ?cmp, ?cpx, ?cpy⟩
  case cmpCodes | cpxCodes | cpyCodes => exact encodesAs_of_opcodeIn (fun _ => rfl) fun _ => rfl
  case cmp => exact reads_of_body (fun _ => rfl) fun v t => State.compare_eq t.a v t
  case cpx => exact reads_of_body (fun _ => rfl) fun v t => State.compare_eq t.x v t
  case cpy => exact reads_of_body (fun _ => rfl) fun v t => State.compare_eq t.y v t

/-- Settles O41: INC and DEC by the rule for `setNZ` of the byte written, the shifts and rotates by theirs, on memory and on A. -/
theorem incrementsAndShifts : Obligations.IncrementsAndShifts := by
  refine ⟨?incCodes, ?decCodes, ?aslCodes, ?lsrCodes, ?rolCodes, ?rorCodes, ?inc, ?dec, ?asl, ?lsr, ?rol, ?ror,
    fun s => ⟨?aslA, ?lsrA, ?rolA, ?rorA⟩⟩
  case incCodes | decCodes | aslCodes | lsrCodes | rolCodes | rorCodes =>
    exact encodesAs_of_opcodeIn (fun _ => rfl) fun _ => rfl
  case inc => exact modifies_of_setNZ (fun _ => rfl) fun v => (ofNat_increment v).symm
  case dec => exact modifies_of_setNZ (fun _ => rfl) fun v => (ofNat_decrement v).symm
  case asl => exact modifies_of_shift (fun _ => rfl) fun v _ => shl_eq v
  case lsr => exact modifies_of_shift (fun _ => rfl) fun v _ => shr_eq v
  case rol => exact modifies_of_shift (fun _ => rfl) rol_eq
  case ror => exact modifies_of_shift (fun _ => rfl) ror_eq
  case aslA => exact exec_shift_accumulator (fun _ => rfl) (fun v _ => shl_eq v) rfl s
  case lsrA => exact exec_shift_accumulator (fun _ => rfl) (fun v _ => shr_eq v) rfl s
  case rolA => exact exec_shift_accumulator (fun _ => rfl) rol_eq rfl s
  case rorA => exact exec_shift_accumulator (fun _ => rfl) ror_eq rfl s

end Sys2Proof.Machine

/-! PROOF. The family 44_control.md: jumps, calls, returns, the software interrupt and the branches (R210 to R225). -/

namespace Sys2Proof.Machine

/-! The closed forms that Laws/ does not have yet. -/

/-- JMP once its target is found (R210). -/
theorem body_jmp_ok {m : Mode} {s t : State} {w : Word} (h : resolveTarget m s = .ok w t) :
    body (.jmp m) s = .ok () { t with pc := w } := bind_ok h _

theorem body_jmp_error {m : Mode} {s t : State} {c : Stop} (h : resolveTarget m s = .error c t) :
    body (.jmp m) s = .error c t := bind_error h _

/-- The return address of RTS, in numbers (R212). -/
theorem word_add_one (h l : Byte) : word h l + 1 = BitVec.ofNat 16 ((h.toNat * 256 + l.toNat + 1) % 65536) := by
  have hw := word_toNat h l
  bv_omega

/-- The branch target, in numbers: the displacement is signed, and PC wraps (40_addressing.md R137). -/
theorem branchTarget_toNat (pc : Word) (d : Byte) : ((branchTarget pc d).toNat : Int) = (pc.toNat + d.toInt) % 65536 := by
  have hd : ((sext16 d).toNat : Int) = d.toInt % 65536 := by
    rw [sext16, BitVec.signExtend, BitVec.toNat_ofInt, Int.toNat_of_nonneg (Int.emod_nonneg _ (by decide))]
    rfl
  rw [branchTarget, BitVec.toNat_add]
  omega

theorem putFlag_i_true (p : Byte) : putFlag .i true p = p ||| 0x04 := rfl

/-- An instruction whose lines are a branch on `f` (R217). -/
theorem branches_of_body {k : Byte → Instr} {f : Flag} {b : Bool} (lines : ∀ d, body (k d) = branch f b d)
    (wf : ∀ d, (k d).wf = true) : Branches k f b := by
  intro d s
  have run : body (k d) s = .ok () (if getFlag f s.p = b then s.setPc (branchTarget s.pc d) else s) := by
    rw [lines]
    rfl
  refine ⟨_, exec_ok (wf d) run, ?_⟩
  split
  case isTrue taken => exact ⟨rfl, fun _ => branchTarget_toNat s.pc d, fun h => absurd taken h⟩
  case isFalse untaken => exact ⟨rfl, fun h => absurd h untaken, fun _ => rfl⟩

/-! What the pushes leave in page $01. -/

theorem slot_down_ne (sp : Byte) : 0x100 + (sp - 1).toNat ≠ 0x100 + sp.toNat := by bv_omega

theorem not_mem_pushedSlots_jsr {k : Nat} (w : Word) (sp : Byte) :
    k ∉ pushedSlots (.jsr w) sp ↔ k ≠ 0x100 + sp.toNat ∧ k ≠ 0x100 + (sp - 1).toNat := by
  have slots : pushedSlots (.jsr w) sp = [0x100 + sp.toNat, 0x100 + (sp - 1).toNat] := rfl
  simp only [slots, List.mem_cons, List.not_mem_nil, or_false, not_or, ne_eq]

theorem not_mem_pushedSlots_brk {k : Nat} (sp : Byte) :
    k ∉ pushedSlots .brk sp ↔ k ≠ 0x100 + sp.toNat ∧ k ≠ 0x100 + (sp - 1).toNat ∧ k ≠ 0x100 + (sp - 2).toNat := by
  have slots : pushedSlots .brk sp = [0x100 + sp.toNat, 0x100 + (sp - 1).toNat, 0x100 + (sp - 2).toNat] := rfl
  simp only [slots, List.mem_cons, List.not_mem_nil, or_false, not_or, ne_eq]

section PushedBytes

variable {m : Memory} (h : m.wf) (sp x y z : Byte)

include h

/-- JSR's two slots hold the bytes pushed there, and every other byte is as before. -/
theorem pushes_jsr (w : Word) :
    let after := (m.write (0x100 + sp.toNat) x).write (0x100 + (sp - 1).toNat) y
    after.read (0x100 + sp.toNat) = x ∧ after.read (0x100 + (sp - 1).toNat) = y ∧
      ∀ k, k ∈ pushedSlots (.jsr w) sp ∨ after.read k = m.read k := by
  have read := read_two_pushes h sp x y
  refine ⟨?first, ?second, fun k => or_iff_not_imp_left.mpr fun hk => ?other⟩
  case first => rw [read, if_pos rfl]
  case second => rw [read, if_neg (slot_down_ne sp), if_pos rfl]
  case other =>
    obtain ⟨hk, hk'⟩ := (not_mem_pushedSlots_jsr w sp).mp hk
    rw [read, if_neg hk, if_neg hk']

/-- BRK's three slots hold the bytes pushed there, and every other byte is as before. -/
theorem pushes_brk :
    let after := ((m.write (0x100 + sp.toNat) x).write (0x100 + (sp - 1).toNat) y).write (0x100 + (sp - 2).toNat) z
    after.read (0x100 + sp.toNat) = x ∧ after.read (0x100 + (sp - 1).toNat) = y ∧ after.read (0x100 + (sp - 2).toNat) = z ∧
      ∀ k, k ∈ pushedSlots .brk sp ∨ after.read k = m.read k := by
  have read := read_three_pushes h sp x y z
  refine ⟨?first, ?second, ?third, fun k => or_iff_not_imp_left.mpr fun hk => ?other⟩
  case first => rw [read, if_pos rfl]
  case second => rw [read, if_neg (slot_down_ne sp), if_pos rfl]
  case third => exact Memory.read_write_same (Memory.write_wf (Memory.write_wf h _ _) _ _) _ z
  case other =>
    obtain ⟨hk, hk', hk''⟩ := (not_mem_pushedSlots_brk sp).mp hk
    rw [read, if_neg hk, if_neg hk', if_neg hk'']

end PushedBytes

/-! The obligations. -/

/-- Settles O42: the three instructions in closed form, with JSR's pushes read back. -/
theorem jumpsCallsAndReturns : Obligations.JumpsCallsAndReturns := by
  refine ⟨?jmpCodes, fun _ => rfl, rfl, fun m s t hwf => ⟨fun w hw => ?jumps, fun a access ha => ?stops⟩,
    fun w s hram => ?jsr, fun s => ?rts⟩
  case jmpCodes => exact encodesAs_of_opcodeIn (fun _ => rfl) fun _ => rfl
  case jumps => exact exec_ok hwf (body_jmp_ok hw)
  case stops => exact stopsUnmapped_of_body hwf (body_jmp_error ha)
  case jsr => exact ⟨_, exec_ok rfl (callSubroutine_eq s w), rfl, pushes_jsr hram s.sp _ _ w⟩
  case rts =>
    rw [← word_add_one]
    exact exec_ok rfl (returnFromSubroutine_eq s)

/-- Settles O43: trap entry and return in closed form, with BRK's pushes read back. -/
theorem breakAndReturnFromInterrupt : Obligations.BreakAndReturnFromInterrupt := by
  refine ⟨rfl, rfl, fun s hram => ?brk, fun s => ?rti⟩
  case brk =>
    have run := softwareInterrupt_eq s
    rw [putFlag_i_true] at run
    exact ⟨_, exec_ok rfl run, rfl, pushes_brk hram s.sp _ _ _⟩
  case rti => exact exec_ok rfl (returnFromTrap_eq s)

/-- Settles O44: each branch's lines are `branch` of its flag and sense. -/
theorem branchesTestTheirFlag : Obligations.BranchesTestTheirFlag := by
  refine ⟨fun _ => ⟨rfl, rfl, rfl, rfl, rfl, rfl, rfl, rfl⟩, ?bpl, ?bmi, ?bvc, ?bvs, ?bcc, ?bcs, ?bne, ?beq⟩
  case bpl | bmi | bvc | bvs | bcc | bcs | bne | beq => exact branches_of_body (fun _ => rfl) fun _ => rfl

end Sys2Proof.Machine

/-! PROOF. The family 45_stack_flags_nop.md: pushes and pulls, the flag instructions and NOP (R240 to R251, R274 to R276). -/

namespace Sys2Proof.Machine

/-! The rules for an instruction of each shape. -/

/-- An instruction whose lines are one push: the slot holds the byte, and every other byte is as before (10_state.md R23). -/
theorem exec_push {i : Instr} {s : State} {v : Byte} (hi : i.wf = true) (lines : body i s = push v s)
    (slots : pushedSlots i s.sp = [0x100 + s.sp.toNat]) (hram : s.ram.wf) :
    ∃ t, exec i s = .next t ∧ t = { s with ram := t.ram, sp := s.sp - 1 } ∧ t.ram.read (0x100 + s.sp.toNat) = v ∧
      ∀ k, k ∈ pushedSlots i s.sp ∨ t.ram.read k = s.ram.read k := by
  refine ⟨_, exec_ok hi (lines.trans (push_eq s v)), rfl, Memory.read_write_same hram _ v, fun k => ?_⟩
  rw [slots, List.mem_singleton]
  exact or_iff_not_imp_left.mpr fun hk => Memory.read_write_other hram hk v

/-- An instruction whose lines are one pull and what is done with the byte. -/
theorem body_pull {i : Instr} {effect : Byte → State → State} (lines : body i = do let v ← pull; update (effect v))
    (s : State) : body i s = .ok () (effect (s.ram.read (0x100 + (s.sp + 1).toNat)) (s.setS (s.sp + 1))) := by
  rw [lines, bind_ok (pull_run s), update_run]

/-- An instruction whose lines write one flag. -/
theorem exec_setFlag {i : Instr} {f : Flag} {b : Bool} (hi : i.wf = true) (lines : body i = update (State.setFlag f b))
    (s : State) : exec i s = .next { s with p := putFlag f b s.p } :=
  exec_ok hi (congrFun lines s)

/-! NOP: its operand's read, and its opcode values. -/

/-- An operand that reads without a stop belongs to a mode other than the implied one, so NOP is that read. -/
theorem discardOperand_ok {m : Mode} {s t : State} {v : Byte} (h : readOperand m s = .ok v t) :
    discardOperand m s = .ok () t := by
  cases m with
  | implied => cases h
  | _ => exact reading_ok h _

/-- Nor does the implied mode make an access that could meet an unmapped address. -/
theorem discardOperand_unmapped {m : Mode} {s t : State} {a : Word} {x : Access}
    (h : readOperand m s = .error (.unmapped a x) t) : discardOperand m s = .error (.unmapped a x) t := by
  cases m with
  | implied => cases h
  | _ => exact reading_error h _

/-- The decode table has the mode an opcode value of NOP is listed under, so no value is listed under two modes
(30_encoding.md R114). -/
theorem decodeEntry_mode_of_nop (am : AddrMode) : ∀ op ∈ nopOpcodes am, (decodeEntry op).mode = am := by
  cases am <;> decide

theorem mem_nopOpcodes_iff {am : AddrMode} {op : Byte} (h : op ∈ nopOpcodes am) (am' : AddrMode) :
    op ∈ nopOpcodes am' ↔ am' = am := by
  refine ⟨fun h' => ?_, fun e => e ▸ h⟩
  rw [← decodeEntry_mode_of_nop am' op h', decodeEntry_mode_of_nop am op h]

/-- An opcode value of NOP encodes the one mode it is listed under. -/
theorem encodesAs_nop {am : AddrMode} {op : Byte} (h : op ∈ nopOpcodes am) : EncodesAs (.nop op) [(am, op)] := by
  intro m
  have listed := mem_nopOpcodes_iff h m.addrMode
  by_cases hm : m.addrMode = am
  · simp [encode, Instr.opcode, Instr.mode, hm, h]
  · have hne : (m.addrMode == am) = false := beq_false_of_ne hm
    simp [encode, Instr.opcode, listed, hm, List.lookup, hne]

/-! The obligations. -/

/-- Settles O45: PHA and PHP are one push, PLA and PLP one pull and the write of a register. -/
theorem pushesAndPulls : Obligations.PushesAndPulls := by
  refine ⟨rfl, rfl, rfl, rfl, fun s hram => ⟨?pha, ?php, ?pla, ?plp⟩⟩
  case pha | php => exact exec_push rfl rfl rfl hram
  case pla => exact exec_setNZ ((s.setS (s.sp + 1)).setA _) _ rfl (body_pull (effect := fun v u => (u.setA v).setNZ v) rfl s)
  case plp => exact exec_ok rfl (body_pull (effect := State.setP) rfl s)

/-- Settles O46: each is the write of its flag, and the masks are those that write uses. -/
theorem flagInstructions : Obligations.FlagInstructions := by
  refine ⟨rfl, rfl, rfl, rfl, rfl, rfl, rfl, fun s => ⟨?clc, ?sec, ?cli, ?sei, ?cld, ?sed, ?clv⟩⟩
  case clc => exact exec_setFlag (f := .c) (b := false) rfl rfl s
  case sec => exact exec_setFlag (f := .c) (b := true) rfl rfl s
  case cli => exact exec_setFlag (f := .i) (b := false) rfl rfl s
  case sei => exact exec_setFlag (f := .i) (b := true) rfl rfl s
  case cld => exact exec_setFlag (f := .d) (b := false) rfl rfl s
  case sed => exact exec_setFlag (f := .d) (b := true) rfl rfl s
  case clv => exact exec_setFlag (f := .v) (b := false) rfl rfl s

/-- Settles O47: the opcode values by the list of their mode; an instruction with an operand is that operand's read. -/
theorem nopFormsOnlyRead : Obligations.NopFormsOnlyRead := by
  have implied : ∀ op ∈ ([0xEA, 0x1A, 0x3A, 0x5A, 0x7A, 0xDA, 0xFA] : List Byte), op ∈ nopOpcodes .implied := by decide
  refine ⟨fun op hop => ⟨encodesAs_nop (implied op hop), fun s => ?nothing⟩, fun _ => encodesAs_nop (am := .immediate),
    fun _ => encodesAs_nop (am := .zeropage), fun _ => encodesAs_nop (am := .zeropageX),
    encodesAs_nop (am := .absolute) (by decide), fun _ => encodesAs_nop (am := .absoluteX),
    fun op m s t hwf => ⟨fun v hread => ?completes, fun a access hread => ?stops⟩⟩
  case nothing => exact exec_ok (List.contains_iff_mem.mpr (implied op hop)) rfl
  case completes => exact exec_ok hwf (discardOperand_ok hread)
  case stops => exact stopsUnmapped_of_body hwf (discardOperand_unmapped hread)

end Sys2Proof.Machine

/-! PROOF. The family 46_illegal.md: the combined read-modify-write instructions and the immediate combinations (R261 to R264,
R267 to R272). The shifter and the flag operations are those of 42_arith_logic.md; what is new is how they are put together. -/

namespace Sys2Proof.Machine

/-! The closed forms of the operations that have none yet. -/

/-- ANC writes C after N and Z, which leaves what writing it before them leaves (R269). -/
theorem putFlag_c_withNZ (r : Byte) (c : Bool) (p : Byte) : putFlag .c c (withNZ r p) = withNZC r c p := by
  apply byte_ext
  intro f
  rw [getFlag_putFlag, getFlag_withNZ, getFlag_withNZC]
  cases f <;> rfl

/-- ARR adds V to the three flags of a shift (R271). -/
theorem putFlag_v_withNZC (r : Byte) (v c : Bool) (p : Byte) : putFlag .v v (withNZC r c p) = withNVZC r v c p := by
  apply byte_ext
  intro f
  rw [getFlag_putFlag, getFlag_withNZC, getFlag_withNVZC]
  cases f <;> rfl

/-- `P.C <- c` and a bitwise operation into A in one record update. -/
theorem logicA_setC_eq (f : Byte → Byte → Byte) (v : Byte) (c : Bool) (s : State) :
    logicA f v (s.setFlag .c c) = { s with a := f s.a v, p := withNZC (f s.a v) c s.p } :=
  State.setC_setNZ_eq (f s.a v) c (s.setA (f s.a v))

/-- SBX's difference, in numbers (R272). -/
theorem ofNat_difference (t v : Byte) : BitVec.ofNat 8 ((t.toNat + 256 - v.toNat) % 256) = t - v := by bv_omega

/-! The rules for an instruction of each shape. -/

/-- A shift or rotate of memory, then the bit shifted out into C, then what the instruction does with the byte written. -/
theorem modifies_of_shift_then {k : Mode → Instr} {shift : Byte → State → Byte × Bool} {result : Byte → State → Byte}
    {out : Byte → Bool} {effect : Byte → Byte → State → State} (op : Byte → State → State)
    (lines : ∀ m, body (k m) = modifying m shift fun r co s => op r (s.setFlag .c co))
    (shifted : ∀ v t, shift v t = (result v t, out v))
    (same : ∀ v r u, op r (u.setFlag .c (out v)) = effect v r u) : Modifies k result effect := by
  refine modifies_of_body lines (fun v t => ?computed) fun v t u => ?same
  case computed => rw [shifted]
  case same =>
    rw [shifted]
    exact same v (result v t) u

/-- An increment or decrement of memory, then what the instruction does with the byte written. -/
theorem modifies_of_step_then {k : Mode → Instr} {f result : Byte → Byte} {op effect : Byte → State → State}
    (lines : ∀ m, body (k m) = modifying m (fun v _ => (f v, ())) fun r _ s => op r s) (computed : ∀ v, result v = f v)
    (same : ∀ r u, op r u = effect r u) : Modifies k (fun v _ => result v) fun _ r u => effect r u :=
  modifies_of_body lines (fun v _ => (computed v).symm) fun v _ u => same (result v) u

/-- A read instruction in immediate mode makes no bus access, so it completes in every state. -/
theorem exec_immediate {i : Instr} {v : Byte} {effect : Byte → State → State} (hi : i.wf = true)
    (lines : body i = reading (.immediate v) effect) (s : State) : exec i s = .next (effect v s) :=
  exec_ok hi (by rw [lines, reading_ok readOperand_immediate])

/-! The obligations. -/

/-- Settles O48: SLO, RLA and SRE are a shift and a bitwise operation into A; RRA adds with the bit its rotate shifted out, DCP
compares and ISC subtracts. -/
theorem combinedReadModifyWrite : Obligations.CombinedReadModifyWrite := by
  refine ⟨?sloCodes, ?rlaCodes, ?sreCodes, ?rraCodes, ?dcpCodes, ?iscCodes, ?slo, ?rla, ?sre, ?rra, ?dcp, ?isc⟩
  case sloCodes | rlaCodes | sreCodes | rraCodes | dcpCodes | iscCodes =>
    exact encodesAs_of_opcodeIn (fun _ => rfl) fun _ => rfl
  case slo =>
    exact modifies_of_shift_then (logicA (· ||| ·)) (fun _ => rfl) (fun v _ => shl_eq v) fun _ r => logicA_setC_eq _ r _
  case rla => exact modifies_of_shift_then (logicA (· &&& ·)) (fun _ => rfl) rol_eq fun _ r => logicA_setC_eq _ r _
  case sre =>
    exact modifies_of_shift_then (logicA (· ^^^ ·)) (fun _ => rfl) (fun v _ => shr_eq v) fun _ r => logicA_setC_eq _ r _
  case rra => exact modifies_of_shift_then State.addToA (fun _ => rfl) ror_eq fun _ r _ => State.addToA_eq r _
  case dcp => exact modifies_of_step_then (fun _ => rfl) ofNat_decrement fun r u => State.compare_eq u.a r u
  case isc => exact modifies_of_step_then (fun _ => rfl) ofNat_increment State.subtractFromA_eq

/-- Settles O49: each is its effect on its own operand byte, and that effect is a register write with the flags of its result. -/
theorem immediateCombinations : Obligations.ImmediateCombinations := by
  refine fun v s => ⟨rfl, rfl, rfl, rfl, rfl, fun op hop => ?anc, ?alr, ?arr, ?sbx⟩
  case anc =>
    have hwf : (Instr.anc op v).wf = true := by rcases hop with rfl | rfl <;> rfl
    rw [exec_immediate hwf rfl, logicA_eq, State.setFlag, putFlag_c_withNZ]
  case alr =>
    rw [exec_immediate rfl rfl, shr_eq, State.setC_setNZ_eq]
    rfl
  case arr =>
    rw [exec_immediate rfl rfl, ror_eq, State.setNZ_eq, State.setFlag, State.setFlag, putFlag_c_withNZ, putFlag_v_withNZC]
    rfl
  case sbx =>
    have subtracted := State.setC_setNZ_eq ((s.a &&& s.x) - v) (decide (v ≤ s.a &&& s.x)) (s.setX ((s.a &&& s.x) - v))
    rw [ofNat_difference]
    exact (exec_immediate rfl rfl s).trans (congrArg _ subtracted)

end Sys2Proof.Machine

/-! PROOF. The family 50_ppu.md: the CPU's eight ports into the PPU (R320 to R327), render() (R330 to R335), and the VBlank step
(R340) with its NMI entry (60_exceptions.md R364). -/

namespace Sys2Proof.Machine

/-! The ports. -/

/-- Settles O15: each port by the lemma about the bus at its addresses. -/
theorem controlStatusAndOamPorts : Obligations.ControlStatusAndOamPorts := by
  intro a v s
  refine ⟨fun h => ?ctrl, fun h => ?mask, fun h => ?status, fun h => ?oamaddr, fun h => ?oam⟩
  case ctrl | mask | status | oamaddr => exact ⟨busRead_isPort s h, busWrite_isPort s h v⟩
  case oam =>
    rw [ofNat_increment]
    exact ⟨busRead_isPort s h, busWrite_isPort s h v⟩

theorem scrollWrite_first {s : State} (h : s.w = false) (v : Byte) : s.scrollWrite v = { s with scrollX := v, w := true } := by
  rw [State.scrollWrite, h]
  rfl

theorem scrollWrite_second {s : State} (h : s.w = true) (v : Byte) : s.scrollWrite v = { s with scrollY := v, w := false } := by
  rw [State.scrollWrite, h]
  rfl

theorem addrWrite_frame (v : Byte) (s : State) : s.addrWrite v = { s with vaddr := (s.addrWrite v).vaddr, w := !s.w } := by
  unfold State.addrWrite
  cases s.w <;> rfl

/-- A byte behind the six bits of VADDR's high part, in numbers. -/
theorem append_toNat (h : BitVec 6) (l : Byte) : (h ++ l : BitVec 14).toNat = h.toNat * 256 + l.toNat := by
  rw [BitVec.toNat_append, Nat.shiftLeft_eq, Nat.mul_comm, ← Nat.two_pow_add_eq_or_of_lt l.isLt]

/-- The address port's write in numbers: the high six bits first, then the low byte (R325). -/
theorem addrWrite_vaddr_toNat (v : Byte) (s : State) :
    (s.addrWrite v).vaddr.toNat = if s.w then s.vaddr.toNat / 256 * 256 + v.toNat
      else v.toNat % 64 * 256 + s.vaddr.toNat % 256 := by
  unfold State.addrWrite
  split
  case isTrue =>
    have hlt := s.vaddr.isLt
    rw [append_toNat, BitVec.toNat_setWidth, BitVec.toNat_ushiftRight, Nat.shiftRight_eq_div_pow]
    omega
  case isFalse => rw [append_toNat, BitVec.toNat_setWidth, BitVec.toNat_setWidth]

/-- Settles O16: the two ports' writes, by the toggle. -/
theorem twoWritePortsAlternate : Obligations.TwoWritePortsAlternate := by
  intro a v s
  refine ⟨fun h => ⟨busRead_isPort s h, fun hw => ?first, fun hw => ?second⟩, fun h => ⟨busRead_isPort s h, ?address⟩⟩
  case first => rw [← scrollWrite_first hw]; exact busWrite_isPort s h v
  case second => rw [← scrollWrite_second hw]; exact busWrite_isPort s h v
  case address => exact ⟨_, busWrite_isPort s h v, addrWrite_frame v s, addrWrite_vaddr_toNat v s⟩

/-- The data port's read in one form for both ranges of VADDR (R326). -/
theorem dataRead_eq (s : State) :
    s.dataRead = (if s.vaddr.toNat < 0x3F00 then s.rdbuf else s.ppuRead s.vaddr.toNat,
      { s with
        rdbuf := s.ppuRead (if s.vaddr.toNat < 0x3F00 then s.vaddr.toNat else s.vaddr.toNat - 0x1000)
        vaddr := s.advanceVaddr.vaddr }) := by
  by_cases h : s.vaddr.toNat < 0x3F00
  · rw [State.dataRead, if_pos h, if_pos h, if_pos h]
    rfl
  · rw [State.dataRead, if_neg h, if_neg h, if_neg h]
    simp only [State.advanceVaddr]

/-- The data port's write stores at VADDR and then moves VADDR by CTRL's increment, which the store has not touched (R326). -/
theorem dataWrite_eq (v : Byte) (s : State) :
    s.dataWrite v = { s.ppuWrite s.vaddr.toNat v with vaddr := s.advanceVaddr.vaddr } := by
  rw [State.dataWrite, ppuWrite_frame]
  rfl

/-- Settles O17: the data port's read and write, with the advance of VADDR in numbers. -/
theorem dataPortReadsLateAndAdvances : Obligations.DataPortReadsLateAndAdvances := by
  intro a v s h
  have read := busRead_isPort s h
  have write := busWrite_isPort s h v
  rw [show s.portRead 7 = s.dataRead from rfl, dataRead_eq] at read
  rw [show s.portWrite 7 v = s.dataWrite v from rfl, dataWrite_eq] at write
  exact ⟨⟨_, read, rfl, advanceVaddr_toNat s⟩, _, write, rfl, advanceVaddr_toNat s⟩

/-! The bytes of a rendered frame. -/

/-- Byte k of the frame buffer where its pixel has colour index `ci` (R331). -/
def pixelByte (ci : Byte) (k : Nat) : Byte :=
  let colour := Config.systemPalette ((ci &&& 0x3F).setWidth 6)
  match k % 4 with
  | 0 => colour.r
  | 1 => colour.g
  | 2 => colour.b
  | _ => 255

theorem low_six_bits (ci : Byte) : (ci &&& 0x3F).setWidth 6 = ci.setWidth 6 := by
  revert ci
  decide

theorem pixelByte_offset (ci : Byte) (n : Nat) {j : Nat} : pixelByte ci (4 * n + j) = pixelByte ci j := by
  rw [pixelByte, Nat.mul_add_mod, pixelByte]

theorem fbByte_eq (s : State) (sps : List Sprite) (k : Nat) :
    s.fbByte sps k = pixelByte (s.pixelOver sps (k / 4 % 256) (k / 4 / 256)) k := by
  rw [State.fbByte, ← low_six_bits]
  rfl

theorem render_fb_read (s : State) {k : Nat} (hk : k < 245760) :
    s.render.fb.read k = pixelByte (s.pixel (k / 4 % 256) (k / 4 / 256)) k := by
  rw [State.pixel, ← fbByte_eq]
  exact (Memory.read_ofFn _ _ _ _).trans (if_pos ⟨Nat.zero_le k, by omega⟩)

theorem render_fb_read_pixel (s : State) {x y j : Nat} (hx : x < 256) (hy : y < 240) (hj : j < 4) :
    s.render.fb.read (4 * (256 * y + x) + j) = pixelByte (s.pixel x y) j := by
  have hcol : (4 * (256 * y + x) + j) / 4 % 256 = x := by omega
  have hrow : (4 * (256 * y + x) + j) / 4 / 256 = y := by omega
  rw [render_fb_read s (by omega), hcol, hrow, pixelByte_offset]

theorem render_frame (s : State) : s.render = { s with fb := s.render.fb } := rfl
theorem render_fb_wf (s : State) : s.render.fb.wf := Memory.ofFn_wf _ _ _
theorem render_fb_below (s : State) : s.render.fb.below 245760 := Memory.ofFn_below _ _

/-- Settles O19: the four bytes of a pixel, and the frame. -/
theorem renderWritesEveryPixel : Obligations.RenderWritesEveryPixel := by
  refine ⟨fun s x y hx hy => ?pixel, fun s => ⟨render_frame s, render_fb_wf s, render_fb_below s⟩⟩
  have byte {j : Nat} (hj : j < 4) := render_fb_read_pixel s hx hy hj
  exact ⟨byte (j := 0) (by decide), byte (by decide), byte (by decide), byte (by decide)⟩

/-! What one `put` and a list of them leave in the frame buffer. -/

/-- The pixel lies in the picture of 256 by 240 pixels. -/
def Dot.onScreen (d : Dot) : Prop := d.x < 256 ∧ d.y < 240

theorem putDot_wf {m : Memory} (h : m.wf) (d : Dot) : (putDot m d).wf :=
  Memory.write_wf (Memory.write_wf (Memory.write_wf (Memory.write_wf h _ _) _ _) _ _) _ _

theorem putDot_below {m : Memory} (h : m.below 245760) {d : Dot} (hd : d.onScreen) : (putDot m d).below 245760 := by
  obtain ⟨hx, hy⟩ := hd
  exact Memory.write_below (Memory.write_below (Memory.write_below (Memory.write_below h (by omega) _) (by omega) _)
    (by omega) _) (by omega) _

theorem putDot_eq (m : Memory) (d : Dot) :
    putDot m d = (((m.write (4 * (256 * d.y + d.x)) (pixelByte d.ci 0)).write (4 * (256 * d.y + d.x) + 1)
      (pixelByte d.ci 1)).write (4 * (256 * d.y + d.x) + 2) (pixelByte d.ci 2)).write (4 * (256 * d.y + d.x) + 3)
        (pixelByte d.ci 3) := rfl

/-- A `put` stores the four bytes of its pixel. -/
theorem putDot_read {m : Memory} (h : m.wf) (d : Dot) (k : Nat) :
    (putDot m d).read k = if k / 4 = 256 * d.y + d.x then pixelByte d.ci k else m.read k := by
  rw [putDot_eq]
  generalize 256 * d.y + d.x = n
  have hr := Memory.write_wf h (4 * n) (pixelByte d.ci 0)
  have hg := Memory.write_wf hr (4 * n + 1) (pixelByte d.ci 1)
  have hb := Memory.write_wf hg (4 * n + 2) (pixelByte d.ci 2)
  rw [Memory.read_write hb, Memory.read_write hg, Memory.read_write hr, Memory.read_write h]
  by_cases hk : k / 4 = n
  · obtain ⟨j, hj, rfl⟩ : ∃ j < 4, k = 4 * n + j := ⟨k % 4, by omega, by omega⟩
    rw [if_pos hk, pixelByte_offset]
    interval_cases j <;> simp
  · rw [if_neg hk, if_neg (by omega), if_neg (by omega), if_neg (by omega), if_neg (by omega)]

/-- The colour index the last `put` at a pixel puts there, if there is one. -/
def lastPut : List Dot → (x y : Nat) → Option Byte
  | [], _, _ => none
  | d :: dots, x, y => (lastPut dots x y).or (if d.x = x ∧ d.y = y then some d.ci else none)

theorem lastPut_append (dots more : List Dot) (x y : Nat) :
    lastPut (dots ++ more) x y = (lastPut more x y).or (lastPut dots x y) := by
  induction dots with
  | nil => rw [List.nil_append, lastPut, Option.or_none]
  | cons d dots ih => rw [List.cons_append, lastPut, lastPut, ih, Option.or_assoc]

theorem mem_of_lastPut {dots : List Dot} {x y : Nat} {ci : Byte} (h : lastPut dots x y = some ci) : ⟨x, y, ci⟩ ∈ dots := by
  induction dots with
  | nil => cases h
  | cons d dots ih =>
    rw [lastPut, Option.or_eq_some_iff] at h
    rcases h with h | ⟨-, h⟩
    · exact List.mem_cons_of_mem _ (ih h)
    · split at h
      case isTrue hat =>
        obtain ⟨rfl, rfl⟩ := hat
        cases h
        exact List.mem_cons_self
      case isFalse => cases h

theorem not_mem_of_lastPut {dots : List Dot} {x y : Nat} (h : lastPut dots x y = none) (ci : Byte) : ⟨x, y, ci⟩ ∉ dots := by
  induction dots with
  | nil => exact List.not_mem_nil
  | cons d dots ih =>
    rw [lastPut, Option.or_eq_none_iff] at h
    obtain ⟨hrest, hd⟩ := h
    rw [List.mem_cons, not_or]
    refine ⟨?_, ih hrest⟩
    rintro rfl
    rw [if_pos ⟨rfl, rfl⟩] at hd
    cases hd

/-- Where `dots` put no more than one colour at a pixel, their order does not matter. -/
theorem lastPut_eq_of_mem_iff {dots : List Dot} {x y : Nat} {o : Option Byte}
    (h : ∀ ci, ⟨x, y, ci⟩ ∈ dots ↔ o = some ci) : lastPut dots x y = o := by
  cases hl : lastPut dots x y with
  | some ci => exact ((h ci).mp (mem_of_lastPut hl)).symm
  | none =>
    cases o with
    | none => rfl
    | some ci => exact absurd ((h ci).mpr rfl) (not_mem_of_lastPut hl ci)

section Puts

variable {m : Memory} {dots : List Dot}

theorem puts_wf (h : m.wf) : (dots.foldl putDot m).wf := by
  induction dots generalizing m with
  | nil => exact h
  | cons d dots ih => exact ih (putDot_wf h d)

theorem puts_below (h : m.below 245760) (hdots : ∀ d ∈ dots, d.onScreen) : (dots.foldl putDot m).below 245760 := by
  induction dots generalizing m with
  | nil => exact h
  | cons d dots ih =>
    obtain ⟨hd, hrest⟩ := List.forall_mem_cons.mp hdots
    exact ih (putDot_below h hd) hrest

/-- After some `put`s, a pixel shows the last one's colour. -/
theorem puts_read (h : m.wf) (hdots : ∀ d ∈ dots, d.onScreen) (k : Nat) :
    (dots.foldl putDot m).read k = ((lastPut dots (k / 4 % 256) (k / 4 / 256)).map (pixelByte · k)).getD (m.read k) := by
  induction dots generalizing m with
  | nil => rfl
  | cons d dots ih =>
    obtain ⟨⟨hx, hy⟩, hrest⟩ := List.forall_mem_cons.mp hdots
    have hat : k / 4 = 256 * d.y + d.x ↔ d.x = k / 4 % 256 ∧ d.y = k / 4 / 256 := by omega
    rw [List.foldl_cons, ih (putDot_wf h d) hrest, putDot_read h, lastPut]
    simp only [hat]
    cases lastPut dots (k / 4 % 256) (k / 4 / 256) with
    | some ci => rfl
    | none =>
      rw [Option.none_or]
      split <;> rfl

end Puts

/-! The bodies of the two loops. -/

/-- The loops' shift and mask take a bit of a plane, and their `or` of two bits adds their weights. -/
theorem planeBits_eq (low high : Byte) (col : Nat) : planeBits low high col = planeValue low high col := by
  have mask (v : Byte) (i : Nat) : (v.toNat >>> i) &&& 1 = (bit v i).toNat := by
    rw [bit, BitVec.getLsbD, Nat.toNat_testBit, Nat.and_one_is_mod, Nat.shiftRight_eq_div_pow]
  rw [planeBits, planeValue, mask, mask]
  cases bit low (7 - col) <;> cases bit high (7 - col) <;> rfl

theorem low_two_bits (v : Byte) : (v &&& 3).toNat = v.toNat % 4 := by
  rw [BitVec.toNat_and]
  exact Nat.and_two_pow_sub_one_eq_mod v.toNat 2

/-- The body of the background loop puts the background's colour, and keeps its value as BGV (R332). -/
theorem backgroundDot_eq (s : State) (y tx : Nat) {px : Nat} (hpx : px < 8) :
    backgroundDot s y tx px =
      (s.bgValue (8 * tx + px) y, { x := 8 * tx + px, y := y, ci := s.bgColour (8 * tx + px) y }) := by
  have htile : (8 * tx + px) / 8 = tx := by omega
  have hcol : (8 * tx + px) % 8 = px := by omega
  have hmask (n : Nat) : n &&& 3 = n % 4 := Nat.and_two_pow_sub_one_eq_mod n 2
  simp only [backgroundDot, planeBits_eq, hmask, State.bgColour, State.bgValue, State.bgPalette, State.nametableBase, htile, hcol]

/-- The body of the sprite loop in the words of the pixel-by-pixel model. -/
theorem spriteDot_eq_spriteValue (s : State) (i r c : Nat) :
    spriteDot s i r c =
      if (s.sprite i).y + r ≥ 240 ∨ (s.sprite i).x + c ≥ 256 then none
      else if s.spriteValue (s.sprite i) c r = 0 then none
      else if bit (s.sprite i).attr 5 ∧ s.bgValue ((s.sprite i).x + c) ((s.sprite i).y + r) ≠ 0 then none
      else some { x := (s.sprite i).x + c, y := (s.sprite i).y + r
                  ci := s.pal.read (0x10 + 4 * ((s.sprite i).attr.toNat % 4) + s.spriteValue (s.sprite i) c r) } := by
  simp only [spriteDot, planeBits_eq, low_two_bits]
  rfl

/-- The body of the sprite loop puts the sprite's colour, where it has one and the pixel is on the screen (R334). -/
theorem spriteDot_eq (s : State) (i : Nat) {r c : Nat} (hr : r < s.spriteHeight) (hc : c < 8) :
    spriteDot s i r c =
      if (s.sprite i).y + r ≥ 240 ∨ (s.sprite i).x + c ≥ 256 then none
      else (s.spriteColour (s.sprite i) ((s.sprite i).x + c) ((s.sprite i).y + r)).map
        (Dot.mk ((s.sprite i).x + c) ((s.sprite i).y + r)) := by
  rw [spriteDot_eq_spriteValue]
  generalize s.sprite i = sp
  have hbox : sp.y ≤ sp.y + r ∧ sp.y + r < sp.y + s.spriteHeight ∧ sp.x ≤ sp.x + c ∧ sp.x + c < sp.x + 8 := by omega
  rw [State.spriteColour, if_pos hbox, Nat.add_sub_cancel_left, Nat.add_sub_cancel_left]
  simp only [apply_ite (Option.map (Dot.mk (sp.x + c) (sp.y + r))), Option.map_none, Option.map_some]

/-- The `put`s of the background loop (R332). -/
def backgroundDots (s : State) : List Dot :=
  (List.range 240).flatMap fun y => (List.range 32).flatMap fun tx => (List.range 8).map fun px =>
    (backgroundDot s y tx px).2

/-- The `put`s of the sprite loop for OAM entry `i` (R334). -/
def spriteDots (s : State) (i : Nat) : List Dot :=
  (List.range s.spriteHeight).flatMap fun r => (List.range 8).filterMap fun c => spriteDot s i r c

theorem renderDots_eq (s : State) :
    renderDots s = backgroundDots s ++ (List.range 64).reverse.flatMap (spriteDots s) := rfl

/-- The background loop puts each pixel of the screen once, in the background's colour. -/
theorem mem_backgroundDots {s : State} {d : Dot} :
    d ∈ backgroundDots s ↔ d.onScreen ∧ s.bgColour d.x d.y = d.ci := by
  simp only [backgroundDots, List.mem_flatMap, List.mem_map, List.mem_range]
  constructor
  · rintro ⟨y, hy, tx, htx, px, hpx, rfl⟩
    rw [backgroundDot_eq s y tx hpx]
    exact ⟨⟨(by omega : 8 * tx + px < 256), hy⟩, rfl⟩
  · obtain ⟨x, y, ci⟩ := d
    rintro ⟨⟨hx, hy⟩, hci⟩
    dsimp only at hx hy hci
    refine ⟨y, hy, x / 8, by omega, x % 8, Nat.mod_lt _ (by decide), ?_⟩
    rw [backgroundDot_eq s y _ (Nat.mod_lt _ (by decide)), Nat.div_add_mod, hci]

theorem spriteColour_box {s : State} {sp : Sprite} {x y : Nat} {ci : Byte} (h : s.spriteColour sp x y = some ci) :
    sp.y ≤ y ∧ y < sp.y + s.spriteHeight ∧ sp.x ≤ x ∧ x < sp.x + 8 := by
  by_contra hbox
  rw [State.spriteColour, if_neg hbox] at h
  cases h

/-- A sprite's loop puts the pixels of the screen where the sprite has a colour. -/
theorem mem_spriteDots {s : State} {i : Nat} {d : Dot} :
    d ∈ spriteDots s i ↔ d.onScreen ∧ s.spriteColour (s.sprite i) d.x d.y = some d.ci := by
  simp only [spriteDots, List.mem_flatMap, List.mem_filterMap, List.mem_range]
  constructor
  · rintro ⟨r, hr, c, hc, h⟩
    rw [spriteDot_eq s i hr hc] at h
    split at h
    case isTrue => cases h
    case isFalse hscreen =>
      obtain ⟨hy, hx⟩ := not_or.mp hscreen
      obtain ⟨ci, hci, rfl⟩ := Option.map_eq_some_iff.mp h
      exact ⟨⟨not_le.mp hx, not_le.mp hy⟩, hci⟩
  · obtain ⟨x, y, ci⟩ := d
    rintro ⟨⟨hx, hy⟩, hci⟩
    dsimp only at hx hy hci
    obtain ⟨hy0, hy1, hx0, hx1⟩ := spriteColour_box hci
    obtain ⟨r, rfl⟩ := Nat.exists_eq_add_of_le hy0
    obtain ⟨c, rfl⟩ := Nat.exists_eq_add_of_le hx0
    have hr : r < s.spriteHeight := by omega
    have hc : c < 8 := by omega
    refine ⟨r, hr, c, hc, ?_⟩
    rw [spriteDot_eq s i hr hc, if_neg (by omega), hci]
    rfl

theorem renderDots_onScreen (s : State) : ∀ d ∈ renderDots s, d.onScreen := by
  intro d hd
  rw [renderDots_eq, List.mem_append, List.mem_flatMap] at hd
  rcases hd with hd | ⟨i, -, hd⟩
  · exact (mem_backgroundDots.mp hd).1
  · exact (mem_spriteDots.mp hd).1

/-- Lists of `put`s one after another over a colour: each that puts a colour at the pixel replaces the one before. -/
theorem lastPut_flatMap {α : Type} {x y : Nat} {dots : α → List Dot} {colour : α → Option Byte}
    (h : ∀ i, lastPut (dots i) x y = colour i) (is : List α) {before : List Dot} {ci : Byte}
    (hbefore : lastPut before x y = some ci) :
    lastPut (before ++ is.flatMap dots) x y = some (is.foldl (fun c i => (colour i).getD c) ci) := by
  induction is generalizing before ci with
  | nil => rw [List.flatMap_nil, List.append_nil, hbefore, List.foldl_nil]
  | cons i is ih =>
    have hnext : lastPut (before ++ dots i) x y = some ((colour i).getD ci) := by
      rw [lastPut_append, h, hbefore, Option.or_some]
    rw [List.flatMap_cons, ← List.append_assoc, ih hnext, List.foldl_cons]

/-- The last colour the loops put at a pixel of the screen is the pixel's. -/
theorem lastPut_renderDots (s : State) {x y : Nat} (hx : x < 256) (hy : y < 240) :
    lastPut (renderDots s) x y = some (s.pixel x y) := by
  have background : lastPut (backgroundDots s) x y = some (s.bgColour x y) :=
    lastPut_eq_of_mem_iff fun ci => by
      rw [mem_backgroundDots, and_iff_right ⟨hx, hy⟩, Option.some_inj]
  have sprite (i : Nat) : lastPut (spriteDots s i) x y = s.spriteColour (s.sprite i) x y :=
    lastPut_eq_of_mem_iff fun ci => by rw [mem_spriteDots, and_iff_right ⟨hx, hy⟩]
  rw [renderDots_eq, lastPut_flatMap sprite _ background, State.pixel, State.pixelOver, State.drawnSprites, List.foldl_map]

theorem render_fb_eq_puts {s : State} (hwf : s.fb.wf) (hbelow : s.fb.below 245760) :
    s.render.fb = (renderDots s).foldl putDot s.fb := by
  have screen := renderDots_onScreen s
  refine Memory.eq_of_read (render_fb_wf s) (puts_wf hwf) fun k => ?_
  by_cases hk : k < 245760
  · rw [render_fb_read s hk, puts_read hwf screen, lastPut_renderDots s (Nat.mod_lt _ (by decide)) (by omega)]
    rfl
  · rw [Memory.read_of_below (render_fb_below s) (by omega), Memory.read_of_below (puts_below hbelow screen) (by omega)]

/-- Settles O20: the two frame buffers read alike at every byte, and both are in canonical form. -/
theorem renderFollowsTheLoops : Obligations.RenderFollowsTheLoops := by
  refine ⟨fun s y tx px hpx => ?bgv, fun s hwf hbelow => ?puts⟩
  case bgv => rw [backgroundDot_eq s y tx hpx]
  case puts => rw [← render_fb_eq_puts hwf hbelow, ← render_frame]

/-! The VBlank step. -/

theorem setVBlank_true_of_clear {s : State} (h : s.status = 0x00) :
    s.setVBlank true = (bit s.ctrl 7, { s with status := 0x80 }) := by
  rw [State.setVBlank, h]
  rfl

theorem nmiEntry_eq (s : State) :
    nmiEntry s = { s with
      ram := ((s.ram.write (0x100 + s.sp.toNat) (hi s.pc)).write (0x100 + (s.sp - 1).toNat) (lo s.pc)).write
        (0x100 + (s.sp - 2).toNat) ((s.p &&& 0xEF) ||| 0x20)
      sp := s.sp - 3, p := s.p ||| 0x04
      pc := word (s.cart.mapperRead 0xFFFB) (s.cart.mapperRead 0xFFFA) } := by
  rw [nmiEntry, enterTrap_eq s (by decide) (by decide), putFlag_i_true]
  rfl

theorem step_vblank {s : State} (h : s.phase = .running .vblank) : step s = .next (vblankStep s) := by
  rw [step, h]

/-- Settles O24: the step by CTRL bit 7, NMI entry in closed form, and its three pushes read back. -/
theorem vBlankRaisesNmi : Obligations.VBlankRaisesNmi := by
  refine ⟨fun b s => ⟨rfl, rfl⟩, fun s hphase hstatus hram => ?_⟩
  rw [step_vblank hphase, vblankStep, setVBlank_true_of_clear hstatus]
  refine ⟨fun hctrl => ?quiet, fun hctrl => ?nmi⟩
  case quiet => simp only [hctrl]; rfl
  case nmi =>
    simp only [hctrl, if_true, nmiEntry_eq]
    obtain ⟨first, second, third, other⟩ := pushes_brk hram s.sp (hi s.pc) (lo s.pc) ((s.p &&& 0xEF) ||| 0x20)
    refine ⟨_, rfl, rfl, first, second, third, fun k hk hk' hk'' => ?_⟩
    exact (other k).resolve_left ((not_mem_pushedSlots_brk s.sp).mpr ⟨hk, hk', hk''⟩)

end Sys2Proof.Machine

/-! PROOF. The family 30_encoding.md: the decoder and the encoder are inverse to one another (R110 to R120). -/

namespace Sys2Proof

open Machine

/-! Decoding what the encoder writes. -/

/-- The cell of the decode table for mode `am` of an instruction that takes its mode as an argument (R113, R114). -/
def Entry.ofMode (k : Mode → Instr) : AddrMode → Entry
  | .implied => .impM k
  | .accumulator => .accu k
  | .immediate => .imm k
  | .zeropage => .zp k
  | .zeropageX => .zpX k
  | .zeropageY => .zpY k
  | .relative => .rel fun d => k (.relative d)
  | .absolute => .abs k
  | .absoluteX => .absX k
  | .absoluteY => .absY k
  | .indirect => .ind k
  | .indirectX => .indX k
  | .indirectY => .indY k

/-- Such a cell reads the mode's operand bytes back, low byte first. -/
theorem decode_ofMode {op : Byte} {k : Mode → Instr} {m : Mode} (h : decodeEntry op = Entry.ofMode k m.addrMode)
    (rest : List Byte) : decode (op :: m.bytes ++ rest) = .ok (k m, rest) := by
  cases m with
  | implied | accumulator =>
    refine (decode_entry0 ?_ rest).trans ?_ <;> rw [h] <;> rfl
  | immediate b | zeropage b | zeropageX b | zeropageY b | relative b | indirectX b | indirectY b =>
    refine (decode_entry1 ?_ b rest).trans ?_ <;> rw [h] <;> rfl
  | absolute w => exact decode_word (by rw [h]; rfl) (fun w => k (.absolute w)) (by rw [h]; rfl) w rest
  | absoluteX w => exact decode_word (by rw [h]; rfl) (fun w => k (.absoluteX w)) (by rw [h]; rfl) w rest
  | absoluteY w => exact decode_word (by rw [h]; rfl) (fun w => k (.absoluteY w)) (by rw [h]; rfl) w rest
  | indirect w => exact decode_word (by rw [h]; rfl) (fun w => k (.indirect w)) (by rw [h]; rfl) w rest

/-- The decoder reads the instruction back from an opcode byte and the instruction's operand bytes. -/
def DecodesFrom (op : Byte) (i : Instr) : Prop := ∀ rest, decode (op :: i.mode.bytes ++ rest) = .ok (i, rest)

theorem decodesFrom_of_codes {k : Mode → Instr} {codes : List (AddrMode × Byte)} {m : Mode} {op : Byte}
    (cells : ∀ am op, codes.lookup am = some op → decodeEntry op = Entry.ofMode k am) (mode : (k m).mode = m)
    (h : m.opcodeIn codes = some op) : DecodesFrom op (k m) := by
  rw [DecodesFrom, mode]
  exact decode_ofMode (cells _ _ h)

theorem decodesFrom_nop {op : Byte} {m : Mode} (h : op ∈ nopOpcodes m.addrMode) : DecodesFrom op (.nop op m) := by
  have cells : ∀ am, ∀ op ∈ nopOpcodes am, decodeEntry op = Entry.ofMode (.nop op) am := by
    intro am op hop
    cases am <;> fin_cases hop <;> rfl
  exact decode_ofMode (cells _ _ h)

/-- An instruction that carries its opcode value, one of a list. -/
theorem decodesFrom_of_list {ops : List Byte} {k : Byte → Instr} {op op' : Byte} (cells : ∀ op ∈ ops, DecodesFrom op (k op))
    (h : (if ops.contains op' then some op' else none) = some op) : DecodesFrom op (k op') := by
  obtain ⟨listed, hop⟩ := Option.ite_none_right_eq_some.mp h
  cases hop
  exact cells op (List.contains_iff_mem.mp listed)

/-- The opcode a rule lists is the one under which the decode table has the instruction. -/
theorem decodesFrom_opcode {i : Instr} {op : Byte} (h : i.opcode = some op) : DecodesFrom op i := by
  cases i with
  | lda m | ldx m | ldy m | sta m | stx m | sty m | adc m | sbc m | and m | ora m | eor m | bit m | cmp m | cpx m | cpy m
  | inc m | dec m | asl m | lsr m | rol m | ror m | jmp m | slo m | rla m | sre m | rra m | sax m | lax m | dcp m | isc m =>
    exact decodesFrom_of_codes (fun am op h => by cases am <;> cases h <;> rfl) rfl h
  | tax | tay | txa | tya | tsx | txs | inx | iny | dex | dey | rts | rti | brk | pha | php | pla | plp
  | clc | sec | cli | sei | cld | sed | clv | ane | lxa | shx | shy | tas | las =>
    cases h
    exact fun _ => rfl
  | bpl d | bmi d | bvc d | bvs d | bcc d | bcs d | bne d | beq d | alr d | arr d | sbx d | usbc d =>
    cases h
    exact fun _ => rfl
  | jsr w =>
    cases h
    exact decode_word rfl Instr.jsr rfl w
  | nop op' m => exact decodesFrom_of_list (k := (.nop · m)) (fun _ => decodesFrom_nop) h
  | anc op' v => exact decodesFrom_of_list (k := (.anc · v)) (fun op hop => by fin_cases hop <;> exact fun _ => rfl) h
  | jam op' => exact decodesFrom_of_list (k := .jam) (fun op hop => by fin_cases hop <;> exact fun _ => rfl) h
  | sha op' => exact decodesFrom_of_list (k := .sha) (fun op hop => by fin_cases hop <;> exact fun _ => rfl) h

/-- Settles O1: a well-formed instruction has an opcode, and the decode table has the instruction under it. -/
theorem decodeOfEncode : Obligations.DecodeOfEncode := by
  intro i rest hwf
  obtain ⟨op, hop⟩ := Option.isSome_iff_exists.mp ((Laws.encoding i).1.trans hwf)
  rw [encode, hop]
  exact decodesFrom_opcode hop rest

/-- Settles O2: what the decoder read is the opcode and the operand bytes of a cell, and a cell encodes back to these. -/
theorem encodeOfDecode : Obligations.EncodeOfDecode := by
  intro bs i rest h
  obtain ⟨op, operands, b, c, rfl, rfl, hoperands, -⟩ := decode_inv h
  have cell := cell_ok op
  exact ⟨cell.wf b c, by rw [cell.encode, hoperands]⟩

/-! The opcode byte alone fixes the mode and the length. -/

/-- With as many operand bytes as its cell fetches, an opcode byte decodes. -/
theorem decode_complete {op : Byte} {operands : List Byte} (h : operands.length = (decodeEntry op).operands) (rest : List Byte) :
    ∃ b c, decode (op :: operands ++ rest) = .ok ((decodeEntry op).make b c, rest) ∧
      operands = [b, c].take (decodeEntry op).operands := by
  have atMostTwo := (cell_ok op).atMostTwo
  match operands, h with
  | [], h => exact ⟨0, 0, decode_entry0 h.symm rest, by rw [← h]; rfl⟩
  | [b], h => exact ⟨b, 0, decode_entry1 h.symm b rest, by rw [← h]; rfl⟩
  | [b, c], h => exact ⟨b, c, decode_entry2 h.symm b c rest, by rw [← h]; rfl⟩
  | _ :: _ :: _ :: _, h =>
    simp only [List.length_cons] at h
    omega

theorem entry_operands (op : Byte) :
    (decodeEntry op).operands = if op ∈ faultingOpcodes then 0 else (decodeEntry op).mode.operandBytes := by
  rw [Entry.operands, entry_faults]
  simp only [decide_eq_true_eq]

/-- The mode resolved for an executed instruction is that of its cell. -/
theorem mode_addrMode {i : Instr} (h : faulting i = false) : i.mode.addrMode = i.addrMode := by
  cases i with
  | jam _ | ane | lxa | sha _ | shx | shy | tas | las => cases h
  | _ => rfl

/-- Settles O3: the mode and the operand bytes are those of the opcode's cell. -/
theorem opcodeFixesModeAndLength : Obligations.OpcodeFixesModeAndLength := by
  refine ⟨fun op => ⟨(decodeEntry op).mode, _, entry_operands op, fun operands rest hlen => ?complete, fun operands => ?truncated⟩,
    fun _ => mode_addrMode, fun _ => rfl, rfl, rfl, rfl, rfl, rfl, rfl, rfl, rfl⟩
  case complete =>
    have cell := cell_ok op
    obtain ⟨b, c, hdecode, hoperands⟩ := decode_complete hlen rest
    exact ⟨_, hdecode, cell.mode b c, by rw [Instr.length, cell.mode], cell.fetchedBytes b c, by rw [cell.encode, ← hoperands]⟩
  case truncated => exact decode_truncated (cell_ok op).atMostTwo

/-- Settles O4: each word by its cell. -/
theorem sampleWordsDecode : Obligations.SampleWordsDecode :=
  ⟨rfl, rfl, rfl, rfl, rfl, rfl, rfl, rfl, rfl, rfl, rfl, rfl, rfl, rfl, rfl, rfl, rfl, rfl, rfl, rfl, rfl⟩

end Sys2Proof

/-! PROOF. The family 60_exceptions.md R380 to R385: the steps of the frame loop and of the host's calls, and the invariant that
every step keeps. -/

namespace Sys2Proof.Machine

/-! What a step can do. -/

/-- The state one step of the frame loop leads to, by the phase it starts in. -/
inductive Steps (s : State) : State → Prop where
  | hostCall (h : s.phase = .loaded ∨ s.phase = .idle) : Steps s (hostCallBetweenFrames s)
  | render (h : s.phase = .running (.pre 0)) : Steps s (renderStep s)
  | vblank (h : s.phase = .running .vblank) : Steps s (vblankStep s)
  | endFrame (h : s.phase = .running (.post 0)) : Steps s (endFrame s)
  | execute {ph : Phase} {t : State} (h : s.phase.spend = some ph) (run : execute { s with phase := ph } = .next t) : Steps s t
  | stopped (h : s.phase = .stopped) : Steps s (hostCallStopped s)

/-- An execute() that is due leads on, whatever it finds. -/
theorem steps_execute {s : State} {ph : Phase} (h : s.phase.spend = some ph) : ∃ t, step s = .next t ∧ Steps s t := by
  obtain ⟨u, -, hu | ⟨cls, o, hu⟩⟩ := execute_outcome outside_frame { s with phase := ph }
  · exact ⟨_, (step_execute h).trans hu, .execute h hu⟩
  · exact ⟨_, (step_execute h).trans hu, .execute h hu⟩

theorem step_between {s : State} (h : s.phase = .loaded ∨ s.phase = .idle) : step s = .next (hostCallBetweenFrames s) := by
  rcases h with h | h <;> rw [step, h]

theorem step_render {s : State} (h : s.phase = .running (.pre 0)) : step s = .next (renderStep s) := by rw [step, h]

theorem step_endFrame {s : State} (h : s.phase = .running (.post 0)) : step s = .next (endFrame s) := by rw [step, h]

theorem step_stopped {s : State} (h : s.phase = .stopped) : step s = .next (hostCallStopped s) := by rw [step, h]

theorem step_ended {s : State} (h : s.phase = .ended) : step s = .fault .sessionEnded := by rw [step, h]

/-- Until the session ends, a step leads on. -/
theorem steps_of_not_ended {s : State} (h : s.phase ≠ .ended) : ∃ t, step s = .next t ∧ Steps s t := by
  match hp : s.phase with
  | .loaded => exact ⟨_, step_between (.inl hp), .hostCall (.inl hp)⟩
  | .idle => exact ⟨_, step_between (.inr hp), .hostCall (.inr hp)⟩
  | .running (.pre 0) => exact ⟨_, step_render hp, .render hp⟩
  | .running (.pre (n + 1)) => exact steps_execute (ph := .running (.pre n)) (by rw [hp]; rfl)
  | .running .vblank => exact ⟨_, step_vblank hp, .vblank hp⟩
  | .running (.post 0) => exact ⟨_, step_endFrame hp, .endFrame hp⟩
  | .running (.post (n + 1)) => exact steps_execute (ph := .running (.post n)) (by rw [hp]; rfl)
  | .stopped => exact ⟨_, step_stopped hp, .stopped hp⟩
  | .ended => exact absurd hp h

theorem steps_of_step {s t : State} (h : step s = .next t) : Steps s t := by
  have hphase : s.phase ≠ .ended := fun he => by rw [step_ended he] at h; cases h
  obtain ⟨u, hu, hsteps⟩ := steps_of_not_ended hphase
  rw [h] at hu
  cases hu
  exact hsteps

/-- An execute() ends in a state related to its first by whatever the bus and the register updates respect, or in such a state with
a fault of the opcode at PC recorded. -/
theorem execute_cases {R : State → State → Prop} (F : BusFrame R) {s t : State} (h : execute s = .next t) :
    ∃ u, R s u ∧ (t = u ∨ ∃ cls o, t = u.recordFault cls o s.pc) := by
  obtain ⟨u, hu, hx⟩ := execute_outcome F s
  rw [h] at hx
  refine ⟨u, hu, hx.imp Host.Outcome.next.inj ?_⟩
  exact fun ⟨cls, o, hx⟩ => ⟨cls, o, Host.Outcome.next.inj hx⟩

theorem phase_spend_cases {p ph : Phase} (h : p.spend = some ph) :
    (∃ n, p = .running (.pre (n + 1)) ∧ ph = .running (.pre n)) ∨ ∃ n, p = .running (.post (n + 1)) ∧ ph = .running (.post n) := by
  match p, h with
  | .running (.pre (n + 1)), h => exact .inl ⟨n, rfl, (Option.some.inj h).symm⟩
  | .running (.post (n + 1)), h => exact .inr ⟨n, rfl, (Option.some.inj h).symm⟩

theorem phase_spend_ne {p ph : Phase} (h : p.spend = some ph) : p ≠ .stopped ∧ p ≠ .ended ∧ ph ≠ .stopped := by
  obtain ⟨n, rfl, rfl⟩ | ⟨n, rfl, rfl⟩ := phase_spend_cases h <;> simp

theorem phase_spend_successors {p ph : Phase} (h : p.spend = some ph) : p.successors = [ph, .stopped] := by
  obtain ⟨n, rfl, rfl⟩ | ⟨n, rfl, rfl⟩ := phase_spend_cases h <;> rfl

/-! The steps of a frame that run no instruction. -/

/-- Between frames the host begins a frame, changes the buttons or ends the session. -/
theorem hostCallBetweenFrames_cases (s : State) : ∃ calls,
    hostCallBetweenFrames s = { s with phase := .running (.pre Config.preVBlankBudget), calls := calls } ∨
    (∃ buttons, hostCallBetweenFrames s = { s with buttons := buttons, calls := calls }) ∨
    hostCallBetweenFrames s = { s with phase := .ended, calls := calls } := by
  unfold hostCallBetweenFrames
  split
  · exact ⟨s.calls, .inl rfl⟩
  · exact ⟨_, .inl rfl⟩
  · exact ⟨_, .inr (.inl ⟨_, rfl⟩)⟩
  · exact ⟨_, .inr (.inr rfl)⟩

/-- In Stopped only the end of the session has an effect. -/
theorem hostCallStopped_cases (s : State) : ∃ calls,
    hostCallStopped s = { s with calls := calls } ∨
    (s.calls.head? = some .stop ∧ hostCallStopped s = { s with phase := .ended, calls := calls }) := by
  unfold hostCallStopped
  split
  case h_1 => exact ⟨s.calls, .inl rfl⟩
  case h_2 => exact ⟨_, .inl rfl⟩
  case h_3 => exact ⟨_, .inl rfl⟩
  case h_4 hcalls => exact ⟨_, .inr ⟨by rw [hcalls]; rfl, rfl⟩⟩

theorem outside_vblankStep (s : State) : SameOutside s (vblankStep s) ∧ (vblankStep s).fault = s.fault := by
  have nmi := outside_frame.nmiEntry (s.setVBlank true).2
  unfold vblankStep
  dsimp only
  split
  case isTrue => exact ⟨⟨nmi.cart, nmi.fb, nmi.buttons, nmi.calls, nmi.notifications⟩, nmi.fault⟩
  case isFalse => exact ⟨⟨rfl, rfl, rfl, rfl, rfl⟩, rfl⟩

/-- Settles O25: each step by its phase. -/
theorem frameStepsInOrder : Obligations.FrameStepsInOrder := by
  refine ⟨?budgets, fun s => ⟨fun h hcalls => ?frame, step_render, step_endFrame⟩⟩
  case budgets =>
    rw [Config.preVBlankBudget]
    omega
  case frame =>
    have begins : hostCallBetweenFrames s = beginFrame s := by rw [hostCallBetweenFrames, hcalls]
    rw [step_between h, begins]
    rfl

/-- Settles O29: the call at the head of the list, by the phase. -/
theorem hostCallsBetweenFrames : Obligations.HostCallsBetweenFrames := by
  refine ⟨fun s rest h hcalls => ?frame, fun s rest which down h hcalls => ?button, fun s rest h hcalls => ?stop⟩
  case frame =>
    rw [step_between h, hostCallBetweenFrames, hcalls]
    rfl
  case button =>
    refine ⟨{ s with buttons := s.buttons.set which down, calls := rest }, ?_, rfl, ?_⟩
    · rw [step_between h, hostCallBetweenFrames, hcalls]
    · cases which <;> simp [Buttons.set]
  case stop =>
    rw [← or_assoc] at h
    rcases h with h | h
    · rw [step_between h, hostCallBetweenFrames, hcalls]
    · rw [step_stopped h, hostCallStopped, hcalls]

/-! Claims about every step. -/

/-- Settles O26: by what a step can do. -/
theorem phasesFollowTheFrameLoop : Obligations.PhasesFollowTheFrameLoop := by
  refine ⟨fun s h => ?_, fun s => step_ended⟩
  obtain ⟨t, hstep, hsteps⟩ := steps_of_not_ended h
  refine ⟨t, hstep, ?_⟩
  cases hsteps with
  | hostCall h =>
    obtain ⟨calls, hc | ⟨buttons, hc⟩ | hc⟩ := hostCallBetweenFrames_cases s <;> rw [hc] <;>
      rcases h with h | h <;> simp [h, Phase.successors]
  | render h | vblank h | endFrame h =>
    rw [h]
    exact List.mem_singleton_self _
  | execute h run =>
    obtain ⟨u, hu, rfl | ⟨cls, o, rfl⟩⟩ := execute_cases outside_frame run
    · simp [phase_spend_successors h, hu.phase]
    · simp [phase_spend_successors h]
  | stopped h =>
    obtain ⟨calls, hc | ⟨-, hc⟩⟩ := hostCallStopped_cases s <;> rw [hc] <;> simp [h, Phase.successors]

/-- Settles O27: only an execute() can record a fault, and then it stops the machine; the other steps keep the record. -/
theorem faultStopsTheFrameLoop : Obligations.FaultStopsTheFrameLoop := by
  refine ⟨fun s t hs hstep ht => ?record, fun s t hstep hfault => ?stops, fun s t hs hstep => ?final⟩
  case record =>
    cases steps_of_step hstep with
    | hostCall h =>
      obtain ⟨calls, hc | ⟨buttons, hc⟩ | hc⟩ := hostCallBetweenFrames_cases s <;> rw [hc] at ht
      · cases ht
      · exact absurd ht hs
      · cases ht
    | render h | vblank h | endFrame h => cases ht
    | execute h run =>
      obtain ⟨u, hu, rfl | ⟨cls, o, rfl⟩⟩ := execute_cases outside_frame run
      · rw [hu.phase] at ht
        exact absurd ht (phase_spend_ne h).2.2
      · exact ⟨_, rfl, rfl, rfl, rfl, rfl, rfl, rfl, hu.fb, hu.notifications⟩
    | stopped h => exact absurd h hs
  case stops =>
    cases steps_of_step hstep with
    | hostCall h =>
      obtain ⟨calls, hc | ⟨buttons, hc⟩ | hc⟩ := hostCallBetweenFrames_cases s <;> rw [hc] at hfault <;> exact absurd rfl hfault
    | render h | endFrame h => exact absurd rfl hfault
    | vblank h => exact absurd (outside_vblankStep s).2 hfault
    | execute h run =>
      obtain ⟨u, hu, rfl | ⟨cls, o, rfl⟩⟩ := execute_cases outside_frame run
      · exact absurd hu.fault hfault
      · rfl
    | stopped h =>
      obtain ⟨calls, hc | ⟨-, hc⟩⟩ := hostCallStopped_cases s <;> rw [hc] at hfault <;> exact absurd rfl hfault
  case final =>
    rw [step_stopped hs] at hstep
    cases hstep
    obtain ⟨calls, hc | ⟨hstop, hc⟩⟩ := hostCallStopped_cases s <;> rw [hc]
    · exact ⟨rfl, .inl hs⟩
    · exact ⟨rfl, .inr ⟨rfl, hstop⟩⟩

/-- Settles O28: by what a step can do. -/
theorem rareStateChangesOnlyWhereAllowed : Obligations.RareStateChangesOnlyWhereAllowed := by
  intro s t hstep
  cases steps_of_step hstep with
  | hostCall h =>
    obtain ⟨calls, hc | ⟨buttons, hc⟩ | hc⟩ := hostCallBetweenFrames_cases s <;> rw [hc]
    all_goals exact ⟨rfl, fun hne => absurd rfl hne, fun hne => absurd rfl hne, fun _ => h⟩
  | render h => exact ⟨rfl, fun _ => h, fun hne => absurd rfl hne, fun hne => absurd rfl hne⟩
  | vblank h =>
    have same := (outside_vblankStep s).1
    exact ⟨same.cart, (absurd same.fb ·), (absurd same.notifications ·), (absurd same.buttons ·)⟩
  | endFrame h => exact ⟨rfl, fun hne => absurd rfl hne, fun _ => h, fun hne => absurd rfl hne⟩
  | execute h run =>
    obtain ⟨u, hu, rfl | ⟨cls, o, rfl⟩⟩ := execute_cases outside_frame run
    all_goals exact ⟨hu.cart, (absurd hu.fb ·), (absurd hu.notifications ·), (absurd hu.buttons ·)⟩
  | stopped h =>
    obtain ⟨calls, hc | ⟨-, hc⟩⟩ := hostCallStopped_cases s <;> rw [hc]
    all_goals exact ⟨rfl, fun hne => absurd rfl hne, fun hne => absurd rfl hne, fun hne => absurd rfl hne⟩

/-! The invariant. -/

namespace Inv

variable {s : State}

theorem status_eq_zero (h : Inv s) (hp : s.phase.vblankMayBeOn = false) : s.status = 0x00 :=
  h.vblank.resolve_right (by simp [hp])

theorem no_fault (h : Inv s) (hs : s.phase ≠ .stopped) (he : s.phase ≠ .ended) : s.fault.isSome ≠ true :=
  fun hf => not_or.mpr ⟨hs, he⟩ (h.final hf)

/-- Without a recorded fault the machine may go on to any phase but Stopped that STATUS allows. -/
theorem setPhase (h : Inv s) (hf : s.fault.isSome ≠ true) {ph : Phase} (hne : ph ≠ .stopped)
    (hv : s.status = 0x00 ∨ ph.vblankMayBeOn = true) : Inv { s with phase := ph } :=
  { h with vblank := hv, faulted := fun he => absurd he hne, final := fun hs => absurd hs hf }

theorem ended (h : Inv s) : Inv { s with phase := .ended } :=
  { h with vblank := .inr rfl, faulted := nofun, final := fun _ => .inr rfl }

theorem recordFault (h : Inv s) (cls : FaultClass) (o : Option Byte) (pc : Word) : Inv (s.recordFault cls o pc) :=
  { h with vblank := .inr rfl, faulted := fun _ => rfl, final := fun _ => .inl rfl }

theorem setStatus (h : Inv s) {v : Byte} (hv : v = 0x00 ∨ v = 0x80) (hp : v = 0x00 ∨ s.phase.vblankMayBeOn = true) :
    Inv { s with status := v } :=
  { h with status := hv, vblank := hp }

/-- The host's call in phase Loaded or Idle. -/
theorem hostCallBetweenFrames (h : Inv s) (hp : s.phase = .loaded ∨ s.phase = .idle) : Inv (hostCallBetweenFrames s) := by
  have hstatus := h.status_eq_zero (by rcases hp with hp | hp <;> rw [hp] <;> rfl)
  have hfault := h.no_fault (by rcases hp with hp | hp <;> simp [hp]) (by rcases hp with hp | hp <;> simp [hp])
  obtain ⟨calls, hc | ⟨buttons, hc⟩ | hc⟩ := hostCallBetweenFrames_cases s <;> rw [hc]
  · exact { h.setPhase hfault (ph := .running (.pre Config.preVBlankBudget)) (by simp) (.inl hstatus) with }
  · exact { h with }
  · exact { h.ended with }

theorem hostCallStopped (h : Inv s) : Inv (hostCallStopped s) := by
  obtain ⟨calls, hc | ⟨-, hc⟩⟩ := hostCallStopped_cases s <;> rw [hc]
  · exact { h with }
  · exact { h.ended with }

theorem renderStep (h : Inv s) (hp : s.phase = .running (.pre 0)) : Inv (renderStep s) :=
  have hstatus := h.status_eq_zero (by rw [hp]; rfl)
  have hfault := h.no_fault (by simp [hp]) (by simp [hp])
  { h.setPhase hfault (ph := .running .vblank) (by simp) (.inl hstatus) with
    fb := ⟨render_fb_wf s, render_fb_below s⟩ }

theorem endFrame (h : Inv s) (hp : s.phase = .running (.post 0)) : Inv (endFrame s) :=
  have hstatus := status_and s.status h.status
  have hfault := h.no_fault (by simp [hp]) (by simp [hp])
  { (h.setStatus (.inl hstatus) (.inl hstatus)).setPhase hfault (ph := .idle) (by simp) (.inl hstatus) with }

end Inv

/-- The VBlank step sets STATUS and the phase, and NMI entry reads neither. -/
theorem vblankStep_eq {s : State} (h : s.status = 0x00) :
    vblankStep s =
      if bit s.ctrl 7 then nmiEntry { s with status := 0x80, phase := .running (.post Config.postVBlankBudget) }
      else { s with status := 0x80, phase := .running (.post Config.postVBlankBudget) } := by
  rw [vblankStep, setVBlank_true_of_clear h]
  cases bit s.ctrl 7 with
  | true => simp only [if_true, nmiEntry_eq]
  | false => rfl

theorem Inv.vblankStep {s : State} (h : Inv s) (hp : s.phase = .running .vblank) : Inv (vblankStep s) := by
  have hfault := h.no_fault (by simp [hp]) (by simp [hp])
  have on : Inv { s with status := 0x80, phase := .running (.post Config.postVBlankBudget) } :=
    (h.setPhase hfault (ph := .running (.post Config.postVBlankBudget)) (by simp) (.inr rfl)).setStatus (.inr rfl) (.inr rfl)
  rw [vblankStep_eq (h.status_eq_zero (by rw [hp]; rfl))]
  split
  · exact inv_frame.nmiEntry _ on
  · exact on

theorem phase_spend_vblank {p ph : Phase} (h : p.spend = some ph) : ph.vblankMayBeOn = p.vblankMayBeOn := by
  obtain ⟨n, rfl, rfl⟩ | ⟨n, rfl, rfl⟩ := phase_spend_cases h <;> rfl

theorem Inv.execute {s t : State} {ph : Phase} (h : Inv s) (hp : s.phase.spend = some ph)
    (run : execute { s with phase := ph } = .next t) : Inv t := by
  obtain ⟨hstopped, hended, hne⟩ := phase_spend_ne hp
  have due : Inv { s with phase := ph } :=
    h.setPhase (h.no_fault hstopped hended) hne (by rw [phase_spend_vblank hp]; exact h.vblank)
  obtain ⟨u, hu, rfl | ⟨cls, o, rfl⟩⟩ := execute_cases inv_frame run
  · exact hu due
  · exact (hu due).recordFault cls o s.pc

/-- Settles O58: each thing a step can do keeps the invariant. -/
theorem invariantKeptByEveryStep : Obligations.InvariantKeptByEveryStep := by
  intro s t h hstep
  cases steps_of_step hstep with
  | hostCall hp => exact h.hostCallBetweenFrames hp
  | render hp => exact h.renderStep hp
  | vblank hp => exact h.vblankStep hp
  | endFrame hp => exact h.endFrame hp
  | execute hp run => exact h.execute hp run
  | stopped hp => exact h.hostCallStopped

end Sys2Proof.Machine

/-! PROOF. The fetch and execute() (00_scope.md R13, 60_exceptions.md R360 to R373): what is fetched, and what the step does with it. -/

namespace Sys2Proof.Machine

/-! What a fetch of several bytes does. -/

theorem add_one_add_ofNat (a : Word) (k : Nat) : a + 1 + BitVec.ofNat 16 k = a + BitVec.ofNat 16 (k + 1) := by bv_omega

/-- Settles O6: one fetch after another. -/
theorem fetchReadsTheStoredBytes : Obligations.FetchReadsTheStoredBytes := by
  intro n
  induction n with
  | zero =>
    intro s _
    simp [fetchBytes]
  | succ n ih =>
    intro s hcode
    have first : fetch8 s = .ok (storedByte s s.pc) (s.setPc (s.pc + 1)) := by
      have := hcode 0 (by omega)
      exact fetch8_stored (by simpa using this)
    have rest := ih (s.setPc (s.pc + 1)) fun k hk => by
      rw [State.setPc_pc, add_one_add_ofNat]
      exact hcode (k + 1) (by omega)
    simp only [State.setPc_pc, add_one_add_ofNat] at rest
    rw [fetchBytes_succ first rest, List.range_succ_eq_map, List.map_cons, List.map_map, BitVec.add_zero]
    rfl

/-- Bytes at mapped addresses are fetched, whatever reading them changes. -/
theorem fetchBytes_mapped {n : Nat} {s : State} (h : ∀ k < n, mapped (s.pc + BitVec.ofNat 16 k) = true) :
    ∃ bs t, bs.length = n ∧ fetchBytes n s = .ok bs t := by
  induction n generalizing s with
  | zero => exact ⟨[], s, rfl, rfl⟩
  | succ n ih =>
    obtain ⟨b, t, hb⟩ := busRead_mapped s (a := s.pc) (by simpa using h 0 (by omega))
    obtain ⟨bs, u, hlen, hbs⟩ := ih (s := t.setPc (s.pc + 1)) fun k hk => by
      rw [State.setPc_pc, add_one_add_ofNat]
      exact h (k + 1) (by omega)
    exact ⟨b :: bs, u, by rw [List.length_cons, hlen], fetchBytes_succ (fetch8_ok hb) hbs⟩

/-! The step that executes. -/

/-- Settles O5: the bytes after the first are the operand bytes the decoder read. -/
theorem stepRunsDecodedInstruction : Obligations.StepRunsDecodedInstruction := by
  intro s t ph bs i hdue hdecode hfetch
  cases bs with
  | nil => cases hdecode
  | cons op operands =>
    obtain ⟨b, u, bs, hop, hoperands, he⟩ := fetchBytes_succ_inv hfetch
    cases he
    rw [step_execute hdue, execute_ok hop (fetchOperands_of_decode hdecode hoperands)]

theorem mapped_of_busRead {a : Word} {s t : State} {b : Byte} (h : busRead a s = .ok b t) : mapped a = true := by
  by_contra hm
  rw [busRead_unmapped s (Bool.not_eq_true _ ▸ hm)] at h
  cases h

theorem joyRead_byte (s : State) : (joyRead s).1 = 0x00 ∨ (joyRead s).1 = 0x01 := by
  unfold joyRead
  split
  case isTrue =>
    cases s.buttons.get s.jidx.val with
    | true => exact .inr rfl
    | false => exact .inl rfl
  case isFalse => exact .inr rfl

/-- No operand byte of an instruction whose opcode byte is mapped lies in the hole: $4016 and $4017 read as opcodes too short to
reach it (20_memory.md R75, R76; 30_encoding.md R114). -/
theorem operand_mapped {s t : State} {pc : Word} {op : Byte} (hread : busRead pc s = .ok op t) {k : Nat}
    (hk : k < (decodeEntry op).operands) : mapped (pc + 1 + BitVec.ofNat 16 k) = true := by
  have hm := mapped_of_busRead hread
  have atMostTwo := (cell_ok op).atMostTwo
  by_cases h17 : pc = 0x4017
  · rw [h17] at hread
    have brk : (decodeEntry 0x00).operands = 0 := rfl
    cases (busRead_audio s (a := 0x4017) (by decide) (by decide) (by decide)).symm.trans hread
    omega
  by_cases h16 : pc = 0x4016
  · have short : (decodeEntry op).operands ≤ 1 := by
      rw [h16, busRead_joystick] at hread
      cases hread
      rcases joyRead_byte s with h | h <;> rw [h] <;> decide
    obtain rfl : k = 0 := by omega
    rw [h16]
    decide
  · rw [mapped_iff] at hm ⊢
    bv_omega

/-- Where an execute() is due and PC is mapped, the whole instruction is fetched, decoded and executed. -/
theorem step_executes {s : State} {ph : Phase} (hdue : s.phase.spend = some ph) (hpc : mapped s.pc = true) :
    ∃ bs i t, fetchBytes bs.length { s with phase := ph } = .ok bs t ∧ decode bs = .ok (i, []) ∧ step s = exec i t := by
  obtain ⟨op, t, hread⟩ := busRead_mapped { s with phase := ph } hpc
  obtain ⟨operands, u, hlen, hoperands⟩ := fetchBytes_mapped (s := t.setPc (s.pc + 1)) fun _ => operand_mapped hread
  obtain ⟨b, c, hdecode, -⟩ := decode_complete hlen []
  rw [List.append_nil] at hdecode
  rw [← hlen] at hoperands
  have fetched := fetchBytes_succ (fetch8_ok (s := { s with phase := ph }) hread) hoperands
  exact ⟨op :: operands, _, u, fetched, hdecode, stepRunsDecodedInstruction s u ph _ _ hdue hdecode fetched⟩

/-- Settles O7: an unmapped PC ends the opcode's fetch; from a mapped one every fetch of the instruction completes. -/
theorem unmappedFetchStopsTheMachine : Obligations.UnmappedFetchStopsTheMachine := by
  refine fun s ph hdue => ⟨fun hpc => ?stops, step_executes hdue⟩
  have hfetch : fetch8 { s with phase := ph } = .error (.unmapped s.pc .read) { s with phase := ph } := fetch8_unmapped hpc
  rw [step_execute hdue, execute_fetch_error hfetch]
  rfl

/-! The faulting opcodes. -/

/-- A faulting instruction only records its fault; its word is the opcode byte alone. -/
theorem exec_faulting {i : Instr} (hwf : i.wf = true) (hf : faulting i = true) (s : State) :
    exec i s = .next (s.recordFault .illegalOpcode i.opcode (s.pc - 1)) := by
  have lines : body i s = .error .illegalOpcode s := by
    cases i with
    | jam _ | ane | lxa | sha _ | shx | shy | tas | las => rfl
    | _ => cases hf
  rw [exec_error hwf lines, Instr.fetchedBytes, if_pos hf]
  rfl

/-- Settles O8: a faulting cell has no operand byte fetched and makes a faulting instruction. -/
theorem faultingOpcodesStopTheMachine : Obligations.FaultingOpcodesStopTheMachine := by
  refine ⟨fun s t ph op hdue hfetch hop => ?step, fun i s hwf hf => exec_faulting hwf hf s,
    fun op b c i rest hdecode => ?faulting, by decide, rfl, rfl, rfl, rfl, rfl, rfl, rfl, rfl⟩
  case step =>
    have faults : (decodeEntry op).faults = true := by rw [entry_faults, decide_eq_true hop]
    have none : (decodeEntry op).operands = 0 := by rw [Entry.operands, if_pos faults]
    have cell := cell_ok op
    have operands : fetchOperands op t = .ok ((decodeEntry op).make 0 0) t :=
      fetchOperands_of_decode (decode_entry0 none []) rfl
    obtain ⟨hwf, hopcode, -⟩ := fetchOperands_inv operands
    rw [step_execute hdue, execute_ok hfetch operands, exec_faulting hwf ((cell.faults 0 0).trans faults), hopcode]
    obtain ⟨u, hread, rfl⟩ := fetch8_inv hfetch
    obtain ⟨a, x, y, sp, pc, p⟩ := (busRead_sameCpu _).ok hread
    simp only [State.recordFault, State.setPc_a, State.setPc_x, State.setPc_y, State.setPc_sp, State.setPc_pc, State.setPc_p,
      a, x, y, sp, p, BitVec.add_sub_cancel]
  case faulting =>
    obtain ⟨op', operands, b', c', he, rfl, -, -⟩ := decode_inv hdecode
    obtain ⟨rfl, -⟩ := List.cons.inj he
    rw [(cell_ok op).faults, entry_faults, decide_eq_true_iff]

end Sys2Proof.Machine

/-! PROOF. The bus and its devices (20_memory.md R66, R77; 50_ppu.md R310 to R337): which accesses complete, what they change, and what
render() shows. -/

namespace Sys2Proof.Machine

/-! Which accesses complete (R77). -/

theorem busRead_completes_iff (a : Word) (s : State) : (∃ v t, busRead a s = .ok v t) ↔ mapped a = true :=
  ⟨fun ⟨_, _, h⟩ => mapped_of_busRead h, busRead_mapped s⟩

/-- The last `n` copies of OAM-DMA complete exactly where every byte they read is mapped. -/
theorem oamDmaFrom_completes_iff (v : Byte) {n : Nat} (hn : n ≤ 256) (s : State) :
    (∃ t, oamDmaFrom v n s = .ok () t) ↔ ∀ i, 256 - n ≤ i → i < 256 → mapped (word v (BitVec.ofNat 8 i)) = true := by
  induction n generalizing s with
  | zero => exact ⟨fun _ i hi hi' => absurd hi' (by omega), fun _ => ⟨s, rfl⟩⟩
  | succ n ih =>
    rw [oamDmaFrom]
    constructor
    · rintro ⟨t, h⟩ i hi hi'
      obtain ⟨b, u, hread, hrest⟩ := bind_ok_inv h
      by_cases he : i = 255 - n
      · rw [he]
        exact mapped_of_busRead hread
      · exact (ih (by omega) _).mp ⟨t, hrest⟩ i (by omega) hi'
    · intro h
      obtain ⟨b, u, hread⟩ := busRead_mapped s (h (255 - n) (by omega) (by omega))
      rw [bind_ok hread, update_bind]
      exact (ih (by omega) _).mpr fun i hi hi' => h i (by omega) hi'

/-- OAM-DMA completes exactly from a page without a hole: page $40 ends at $4018. -/
theorem busWrite_dma_completes_iff (v : Byte) (s : State) :
    (∃ t, busWrite 0x4014 v s = .ok () t) ↔ ¬ (0x40 ≤ v.toNat ∧ v.toNat ≤ 0x7F) := by
  rw [busWrite_dma, oamDma, oamDmaFrom_completes_iff v le_rfl]
  have page {i : Nat} (hi : i < 256) :
      mapped (word v (BitVec.ofNat 8 i)) = true ↔ v.toNat * 256 + i ≤ 0x4017 ∨ 0x8000 ≤ v.toNat * 256 + i := by
    rw [mapped_iff, word_toNat, BitVec.toNat_ofNat, Nat.mod_eq_of_lt hi]
  constructor
  · intro h
    have last := (page (by decide)).mp (h 255 (by omega) (by decide))
    omega
  · intro h i _ hi
    exact (page hi).mpr (by omega)

/-- Settles O11: the hole and, for a write, the page that OAM-DMA copies. -/
theorem accessesCompleteExactlyWhereMapped : Obligations.AccessesCompleteExactlyWhereMapped := by
  refine ⟨fun a s => ?read, fun a v s => ?write, fun v s => ⟨_, push_run s v⟩, fun s => ⟨_, _, pull_run s⟩, fun s a ha => ?vector⟩
  case read => rw [busRead_completes_iff, ← mapped_eq_false_iff, Bool.not_eq_false]
  case write =>
    rw [← mapped_eq_false_iff, Bool.not_eq_false]
    by_cases hd : a = 0x4014
    · subst hd
      rw [busWrite_dma_completes_iff, and_iff_right (show mapped 0x4014 = true from rfl)]
      simp only [true_and]
    · simp only [hd, false_and, not_false_eq_true, and_true]
      refine ⟨fun ⟨t, h⟩ => ?_, fun h => busWrite_mapped s h hd v⟩
      by_contra hm
      rw [busWrite_unmapped s (Bool.not_eq_true _ ▸ hm)] at h
      cases h
  case vector =>
    refine ⟨_, readVector_run s ?_ ?_⟩ <;> rcases ha with rfl | rfl | rfl <;> decide

/-! Side effects (R66). -/

theorem portRead_state {n : Nat} (h2 : n ≠ 2) (h7 : n ≠ 7) (s : State) : (s.portRead n).2 = s := by
  unfold State.portRead
  split
  case h_1 => exact absurd rfl h2
  case h_2 => rfl
  case h_3 => exact absurd rfl h7
  case h_4 => rfl

/-- Away from the status port, the data port and the joystick, a read leaves the state as it is. -/
theorem busRead_state {a : Word} {s t : State} {v : Byte} (h : busRead a s = .ok v t) (h2 : isPort 2 a = false)
    (h7 : isPort 7 a = false) (hj : a ≠ 0x4016) : t = s := by
  have hm := mapped_of_busRead h
  rw [mapped_iff] at hm
  by_cases hcode : holdsCode a = true
  · rw [busRead_stored s hcode] at h
    cases h
    rfl
  rw [holdsCode_iff] at hcode
  by_cases hp : a.toNat ≤ 0x3FFF
  · have port : isPort (a.toNat % 8) a = true := (isPort_iff _ a).mpr ⟨by omega, hp, rfl⟩
    rw [busRead_isPort s port] at h
    cases h
    exact portRead_state (fun e => by rw [e, h2] at port; cases port) (fun e => by rw [e, h7] at port; cases port) s
  · rw [busRead_audio s (by omega) (by omega) hj] at h
    cases h
    rfl

/-- Settles O13: the three reads with a side effect by their closed forms, and the writes that change nothing by their ranges. -/
theorem sideEffectsAreConfined : Obligations.SideEffectsAreConfined := by
  refine ⟨fun a s t v h => ⟨fun h2 => ?status, fun h7 => ?data, fun hj => ?joystick, busRead_state h⟩, fun a s v ha => ?write⟩
  case status =>
    rw [busRead_isPort s h2] at h
    cases h
    rfl
  case data =>
    rw [busRead_isPort s h7] at h
    cases h
    exact dataRead_frame s
  case joystick =>
    rw [hj, busRead_joystick] at h
    cases h
    exact joyRead_frame s
  case write =>
    rcases ha with ha | ⟨h, h', hd, hj⟩
    · exact busWrite_mapper s (by bv_omega) v
    · exact busWrite_audio s h h' hd hj v

/-! PPU memory (R310, R312). -/

theorem samePpuCell_chr {s : State} {a : Nat} (h : a % 0x4000 < 0x2000) (b : Nat) :
    samePpuCell s a b = true ↔ s.cart.chrBanks = 0 ∧ a % 0x4000 = b % 0x4000 := by
  rw [samePpuCell, if_pos h]
  simp

theorem samePpuCell_vram {s : State} {a : Nat} (h : 0x2000 ≤ a % 0x4000) (h' : a % 0x4000 < 0x3F00) (b : Nat) :
    samePpuCell s a b = true ↔ a % 0x4000 = b % 0x4000 := by
  rw [samePpuCell, if_neg (by omega), if_pos h']
  simp

theorem samePpuCell_pal {s : State} {a : Nat} (h : 0x3F00 ≤ a % 0x4000) (b : Nat) :
    samePpuCell s a b = true ↔ 0x3F00 ≤ b % 0x4000 ∧ palIndex (a % 0x4000) = palIndex (b % 0x4000) := by
  rw [samePpuCell, if_neg (by omega), if_neg (by omega), palIndex_eq_iff]
  simp [and_assoc]

section ReadAfterWrite

variable {s : State} {a : Nat} (b : Nat) (v : Byte)

/-- Pattern RAM reads back byte by byte, and graphics-ROM keeps its bytes. -/
theorem ppuRead_ppuWrite_chr (hwf : s.chrRam.wf) (ha : a % 0x4000 < 0x2000) :
    (s.ppuWrite a v).ppuRead b = if samePpuCell s a b then v else s.ppuRead b := by
  simp only [samePpuCell_chr ha]
  by_cases hc : s.cart.chrBanks = 0
  · rw [ppuWrite_chr ha hc]
    by_cases hb : b % 0x4000 < 0x2000
    · simp only [ppuRead_chr hb, State.chrRead, hc, Memory.read_write hwf, if_true, true_and, eq_comm]
    · have other : ¬(s.cart.chrBanks = 0 ∧ a % 0x4000 = b % 0x4000) := by omega
      rw [if_neg other]
      by_cases hb' : b % 0x4000 < 0x3F00
      · rw [ppuRead_vram (by omega) hb', ppuRead_vram (by omega) hb']
      · rw [ppuRead_pal (by omega), ppuRead_pal (by omega)]
  · rw [ppuWrite_rom ha hc, if_neg (fun h => hc h.1)]

/-- VRAM reads back byte by byte. -/
theorem ppuRead_ppuWrite_vram (hwf : s.vram.wf) (ha : 0x2000 ≤ a % 0x4000) (ha' : a % 0x4000 < 0x3F00) :
    (s.ppuWrite a v).ppuRead b = if samePpuCell s a b then v else s.ppuRead b := by
  simp only [samePpuCell_vram ha ha']
  rw [ppuWrite_vram ha ha']
  by_cases hb : 0x2000 ≤ b % 0x4000 ∧ b % 0x4000 < 0x3F00
  · have cell : b % 0x4000 - 0x2000 = a % 0x4000 - 0x2000 ↔ a % 0x4000 = b % 0x4000 := by omega
    simp only [ppuRead_vram hb.1 hb.2, Memory.read_write hwf, cell]
  · rw [if_neg (by omega)]
    by_cases hb' : b % 0x4000 < 0x2000
    · rw [ppuRead_chr hb', ppuRead_chr hb']
      rfl
    · rw [ppuRead_pal (by omega), ppuRead_pal (by omega)]

/-- The palette reads back index by index. -/
theorem ppuRead_ppuWrite_pal (hwf : s.pal.wf) (ha : 0x3F00 ≤ a % 0x4000) :
    (s.ppuWrite a v).ppuRead b = if samePpuCell s a b then v else s.ppuRead b := by
  simp only [samePpuCell_pal ha]
  rw [ppuWrite_pal ha]
  by_cases hb : 0x3F00 ≤ b % 0x4000
  · simp only [ppuRead_pal hb, Memory.read_write hwf, hb, true_and, eq_comm]
  · rw [if_neg (fun h => hb h.1)]
    by_cases hb' : b % 0x4000 < 0x2000
    · rw [ppuRead_chr hb', ppuRead_chr hb']
      rfl
    · rw [ppuRead_vram (by omega) (by omega), ppuRead_vram (by omega) (by omega)]

theorem ppuRead_ppuWrite (a : Nat) (hchr : s.chrRam.wf) (hvram : s.vram.wf) (hpal : s.pal.wf) :
    (s.ppuWrite a v).ppuRead b = if samePpuCell s a b then v else s.ppuRead b := by
  by_cases hrange : a % 0x4000 < 0x2000
  · exact ppuRead_ppuWrite_chr b v hchr hrange
  by_cases hrange' : a % 0x4000 < 0x3F00
  · exact ppuRead_ppuWrite_vram b v hvram (by omega) hrange'
  · exact ppuRead_ppuWrite_pal b v hpal (by omega)

end ReadAfterWrite

/-- The palette's index in the words of R312. -/
theorem palIndex_mod (a : Nat) :
    palIndex (a % 0x4000) = if 16 ≤ a % 32 ∧ a % 4 = 0 then a % 32 - 16 else a % 32 := by
  have mirrors : ∀ i < 32, palIndex i = if 16 ≤ i ∧ i % 4 = 0 then i - 16 else i := by decide
  have low : palIndex (a % 0x4000) = palIndex (a % 32) := (palIndex_eq_iff _ _).mpr (.inl (by omega))
  rw [low, mirrors _ (Nat.mod_lt _ (by decide))]
  have hmod : a % 32 % 4 = a % 4 := by omega
  rw [hmod]

/-- Settles O18: a read after a write, range by range. -/
theorem ppuMemoryHoldsWhatIsWritten : Obligations.PpuMemoryHoldsWhatIsWritten := by
  refine ⟨fun s a b v hchr hvram hpal => ppuRead_ppuWrite b v a hchr hvram hpal, fun s a ha hc => ⟨?rom, ppuWrite_rom ha hc⟩,
    fun s a => ⟨fun ha hc => ?chr, ppuRead_vram, fun ha => ?pal⟩⟩
  case rom => rw [ppuRead_chr ha, State.chrRead, if_neg hc]
  case chr => rw [ppuRead_chr ha, State.chrRead, if_pos hc]
  case pal => rw [ppuRead_pal ha, palIndex_mod]

/-! What render() shows (R332 to R337). -/

/-- Drawing from the last to the first, each over what is there, shows the first that draws. -/
theorem foldl_reverse_getD {α β : Type} (f : α → Option β) (l : List α) (d : β) :
    l.reverse.foldl (fun c x => (f x).getD c) d = (l.findSome? f).getD d := by
  rw [List.foldl_reverse]
  induction l with
  | nil => rfl
  | cons x l ih =>
    rw [List.foldr_cons, ih, List.findSome?_cons]
    cases f x <;> rfl

/-- Settles O21: the sprites are drawn from OAM entry 63 to entry 0. -/
theorem lowestDrawingSpriteShows : Obligations.LowestDrawingSpriteShows := by
  intro s x y
  rw [State.pixel, State.pixelOver, State.drawnSprites, List.map_reverse, foldl_reverse_getD]

/-- What render() reads of a state, in a state that is otherwise the one after reset. -/
def pictureOf (s : State) : State :=
  { State.powerOn { Cartridge.blank with chrBanks := s.cart.chrBanks, chrRom := s.cart.chrRom } with
    chrRam := s.chrRam, vram := s.vram, pal := s.pal, oam := s.oam, ctrl := s.ctrl }

theorem fbByte_pictureOf (s : State) (sps : List Sprite) : (pictureOf s).fbByte sps = s.fbByte sps := rfl

theorem render_fb_pictureOf (s : State) : (pictureOf s).render.fb = s.render.fb :=
  congrArg (fun f => Memory.ofFn f 0 245760) (fbByte_pictureOf s s.drawnSprites)

/-- Settles O22: render() reads nothing that `pictureOf` does not keep. -/
theorem renderIgnoresEverythingElse : Obligations.RenderIgnoresEverythingElse := by
  intro s t hbanks hrom hchr hvram hpal hoam hctrl
  have same : pictureOf s = pictureOf t := by rw [pictureOf, hbanks, hrom, hchr, hvram, hpal, hoam, hctrl, pictureOf]
  rw [← render_fb_pictureOf s, same, render_fb_pictureOf]

/-- An 8-by-8 sprite of tile 0 without flips or priority draws nothing at its corner where the tile is empty. -/
theorem spriteColour_empty {s : State} (hctrl : s.ctrl = 0x00) (hempty : ∀ k < 16, s.chrRead k = 0x00) :
    s.spriteColour { y := 0, tile := 0x00, attr := 0x00, x := 0 } 0 0 = none := by
  have height : s.spriteHeight = 8 := by rw [State.spriteHeight, hctrl]; rfl
  have row : s.spriteRowAddr 0x00 0 = 0 := by rw [State.spriteRowAddr, if_pos height, hctrl]; rfl
  have low : s.ppuRead 0 = 0x00 := (ppuRead_chr (by decide)).trans (hempty 0 (by decide))
  have high : s.ppuRead 8 = 0x00 := (ppuRead_chr (by decide)).trans (hempty 8 (by decide))
  have value : s.spriteValue { y := 0, tile := 0x00, attr := 0x00, x := 0 } 0 0 = 0 := by
    change planeValue (s.ppuRead (s.spriteRowAddr 0x00 0)) (s.ppuRead (s.spriteRowAddr 0x00 0 + 8)) 0 = 0
    rw [row, low, high]
    rfl
  rw [State.spriteColour, height]
  simp only [Nat.sub_self, value]
  rfl

/-- Settles O23: no sprite draws, since tile 0 is empty, and the background is tile 1's first row in palette 0. -/
theorem solidTileColoursFirstPixel : Obligations.SolidTileColoursFirstPixel := by
  intro s hctrl hoam htile hattr hlow hhigh hempty
  have sprites : ∀ sp ∈ (List.range 64).map s.sprite, s.spriteColour sp 0 0 = none := by
    intro sp hsp
    obtain ⟨i, hi, rfl⟩ := List.mem_map.mp hsp
    rw [List.mem_range] at hi
    rw [State.sprite, hoam _ (by omega), hoam _ (by omega), hoam _ (by omega), hoam _ (by omega)]
    exact spriteColour_empty hctrl hempty
  have base : s.nametableBase = 0x2000 := by rw [State.nametableBase, hctrl]; rfl
  have value : s.bgValue 0 0 = 1 := by
    have tile : s.ppuRead 0x2000 = 0x01 := (ppuRead_vram (by decide) (by decide)).trans htile
    have low : s.ppuRead 0x10 = 0xFF := (ppuRead_chr (by decide)).trans hlow
    have high : s.ppuRead 0x18 = 0x00 := (ppuRead_chr (by decide)).trans hhigh
    simp only [State.bgValue, base, hctrl, tile]
    change planeValue (s.ppuRead 0x10) (s.ppuRead 0x18) 0 = 1
    rw [low, high]
    rfl
  have palette : s.bgPalette 0 0 = 0 := by
    have attr : s.ppuRead 0x23C0 = 0x00 := (ppuRead_vram (by decide) (by decide)).trans hattr
    simp only [State.bgPalette, base]
    change ((s.ppuRead 0x23C0).toNat >>> 0) % 4 = 0
    rw [attr]
    rfl
  have background : s.bgColour 0 0 = s.pal.read 1 := by
    rw [State.bgColour, value, palette]
    rfl
  have pixel : s.pixel 0 0 = s.pal.read 1 := by
    rw [lowestDrawingSpriteShows, List.findSome?_eq_none_iff.mpr sprites, background]
    rfl
  have byte {j : Nat} (hj : j < 4) := render_fb_read_pixel s (x := 0) (y := 0) (by decide) (by decide) hj
  simp only [pixel] at byte
  exact ⟨byte (j := 0) (by decide), byte (j := 1) (by decide), byte (j := 2) (by decide), byte (j := 3) (by decide)⟩

end Sys2Proof.Machine

/-! PROOF. Loading an image and reset (10_state.md R40; 20_memory.md R85 to R87): what the cartridge holds, and the invariant of the
state after reset. -/

namespace Sys2Proof.Machine

/-- An image that loads is as long as its header declares, and the state is that after reset. -/
theorem load_inv {img : List Byte} {s : State} (h : State.load img = .ok s) :
    16 + 16384 * (img.getD 4 0).toNat + 8192 * (img.getD 5 0).toNat ≤ img.length ∧ s = State.powerOn (Cartridge.slice img) := by
  obtain ⟨refused, loaded⟩ := malformedImagesAreRefused img
  by_cases hbad : img.length < 16 ∨ (img.getD 4 0).toNat = 0 ∨
      img.length < 16 + 16384 * (img.getD 4 0).toNat + 8192 * (img.getD 5 0).toNat
  · cases (refused hbad).symm.trans h
  · cases (loaded hbad).symm.trans h
    exact ⟨by omega, rfl⟩

theorem getElem?_eq_some_getD {l : List Byte} {k : Nat} (h : k < l.length) (d : Byte) : l[k]? = some (l.getD k d) := by
  rw [List.getD_eq_getElem l d h, List.getElem?_eq_getElem h]

section Slices

variable {img : List Byte} {start n : Nat}

/-- A memory cut from an image holds the image's bytes from `start` on. -/
theorem read_slice (h : start + n ≤ img.length) {k : Nat} (hk : k < n) :
    img[start + k]? = some ((Memory.ofList 0 ((img.drop start).take n)).read k) := by
  have read := Memory.read_ofList ((img.drop start).take n) 0 k
  rw [Nat.zero_add] at read
  have inside : k < ((img.drop start).take n).length := by
    rw [List.length_take, List.length_drop]
    omega
  rw [read, ← getElem?_eq_some_getD inside, List.getElem?_take_of_lt hk, List.getElem?_drop]

theorem below_slice : (Memory.ofList 0 ((img.drop start).take n)).below n := fun c hc =>
  lt_of_lt_of_le (Memory.ofList_below _ c hc) (List.length_take_le _ _)

end Slices

/-- Settles O32: program-ROM and graphics-ROM are two slices of the image, which is long enough for both. -/
theorem loadedImageIsSliced : Obligations.LoadedImageIsSliced := by
  intro img s h
  obtain ⟨hlen, rfl⟩ := load_inv h
  exact ⟨getElem?_eq_some_getD (by omega) 0, getElem?_eq_some_getD (by omega) 0, fun k hk => read_slice (by omega) hk,
    fun k hk => read_slice hlen hk, below_slice, below_slice⟩

/-- The state after reset has the invariant, where the cartridge's memories are in canonical form within their sizes. -/
theorem inv_powerOn {c : Cartridge} (prg : c.prg.wf ∧ c.prg.below (16384 * c.prgBanks.toNat))
    (chrRom : c.chrRom.wf ∧ c.chrRom.below (8192 * c.chrBanks.toNat)) : Inv (State.powerOn c) := by
  have empty : Memory.wf [] := ⟨.nil, nofun⟩
  exact {
    reserved := show getFlag .r 0x24 = true by decide, status := .inl rfl, vblank := .inl rfl, faulted := nofun, final := nofun
    ram := ⟨empty, nofun⟩, prg := prg, chrRom := chrRom, chrRam := ⟨empty, nofun⟩, vram := ⟨empty, nofun⟩
    pal := ⟨empty, nofun⟩, oam := ⟨empty, nofun⟩, fb := ⟨empty, nofun⟩ }

/-- Settles O59: every memory is empty after reset but the cartridge's, which are slices of the image. -/
theorem invariantHoldsAfterReset : Obligations.InvariantHoldsAfterReset := by
  refine ⟨inv_powerOn ⟨⟨.nil, nofun⟩, nofun⟩ ⟨⟨.nil, nofun⟩, nofun⟩, fun img s h => ?_⟩
  obtain ⟨-, rfl⟩ := load_inv h
  exact inv_powerOn ⟨Memory.ofList_wf _ _, below_slice⟩ ⟨Memory.ofList_wf _ _, below_slice⟩

end Sys2Proof.Machine

/-! PROOF. Addressing, signed overflow and the stack's round trips (40_addressing.md R132 to R143; 42_arith_logic.md R170 to R173;
10_state.md R23), in numbers. -/

namespace Sys2Proof.Machine

/-! Addresses in numbers. -/

theorem zext16_eq_ofNat (v : Byte) : zext16 v = BitVec.ofNat 16 v.toNat := by
  rw [← zext16_toNat, BitVec.ofNat_toNat, BitVec.setWidth_eq]

theorem zext16_add (b x : Byte) : zext16 (b + x) = BitVec.ofNat 16 ((b.toNat + x.toNat) % 256) := by
  rw [zext16_eq_ofNat, BitVec.toNat_add]

theorem word_eq_ofNat (h l : Byte) : word h l = BitVec.ofNat 16 (h.toNat * 256 + l.toNat) := by
  rw [← word_toNat, BitVec.ofNat_toNat, BitVec.setWidth_eq]

theorem add_zext16 (w : Word) (x : Byte) : w + zext16 x = BitVec.ofNat 16 ((w.toNat + x.toNat) % 65536) := by
  have hx := zext16_toNat x
  bv_omega

/-- The address of a pointer's high byte, on the pointer's own page (R141). -/
theorem word_hi_lo_add_one (p : Word) : word (hi p) (lo p + 1) = BitVec.ofNat 16 (p.toNat / 256 * 256 + (p.toNat + 1) % 256) := by
  rw [word_eq_ofNat, hi_toNat, BitVec.toNat_add, lo_toNat]
  congr 2
  exact Nat.mod_add_mod _ _ _

theorem resolveTarget_indirect {p : Word} {s t u : State} {l h : Byte} (hl : busRead p s = .ok l t)
    (hh : busRead (word (hi p) (lo p + 1)) t = .ok h u) : resolveTarget (.indirect p) s = .ok (word h l) u := by
  rw [resolveTarget, bind_ok hl, bind_ok hh]
  rfl

/-- Settles O33: each mode's closed form, in numbers. -/
theorem addressingModesResolve : Obligations.AddressingModesResolve := by
  refine fun s => ⟨fun b => ⟨?zeropage, ?zeropageX, ?zeropageY, ?indirectX, ?indirectY⟩, fun w => ⟨rfl, ?absoluteX, ?absoluteY⟩,
    fun m a => readOperand_ea, fun v => rfl, rfl, fun w => rfl, fun p l h t u hl hh => ?pointer⟩
  case zeropage =>
    rw [← zext16_eq_ofNat]
    rfl
  case zeropageX =>
    rw [← zext16_add]
    rfl
  case zeropageY =>
    rw [← zext16_add]
    rfl
  case indirectX =>
    rw [resolve_indirectX, word_eq_ofNat, BitVec.toNat_add (b + s.x) 1, BitVec.toNat_add b s.x]
    rfl
  case indirectY =>
    rw [resolve_indirectY, add_zext16, word_toNat, BitVec.toNat_add b 1]
    rfl
  case absoluteX =>
    rw [← add_zext16]
    rfl
  case absoluteY =>
    rw [← add_zext16]
    rfl
  case pointer =>
    rw [← word_hi_lo_add_one] at hh
    rw [resolveTarget_indirect hl hh, word_eq_ofNat]

/-! Signed overflow (R170, R173). -/

theorem msb_eq (v : Byte) : v.msb = decide (128 ≤ v.toNat) := BitVec.msb_eq_decide v

theorem toInt_eq (v : Byte) : v.toInt = v.toNat - if 128 ≤ v.toNat then 256 else 0 := by
  rw [BitVec.toInt_eq_toNat_cond]
  split <;> split <;> omega

section Overflow

variable {a m r : Byte} {c : Nat}

/-- Operands of one sign with a sum of the other: the signed sum is out of range. -/
theorem add_overflow_iff (hr : r.toNat = (a.toNat + m.toNat + c) % 256) (hc : c ≤ 1) :
    (a.msb == m.msb && r.msb != a.msb) = true ↔ a.toInt + m.toInt + c < -128 ∨ 127 < a.toInt + m.toInt + c := by
  have ha := a.isLt
  have hm := m.isLt
  rw [toInt_eq, toInt_eq]
  simp only [msb_eq, Bool.and_eq_true, beq_iff_eq, bne_iff_ne, ne_eq, decide_eq_decide]
  split <;> split <;> omega

/-- Operands of different signs with a difference of the second's: the signed difference is out of range. -/
theorem subtract_overflow_iff (hr : r.toNat = (a.toNat + 256 - m.toNat - (1 - c)) % 256) (hc : c ≤ 1) :
    (a.msb != m.msb && a.msb != r.msb) = true ↔
      a.toInt - m.toInt - (1 - c) < -128 ∨ 127 < a.toInt - m.toInt - (1 - c) := by
  have ha := a.isLt
  have hm := m.isLt
  rw [toInt_eq, toInt_eq]
  simp only [msb_eq, Bool.and_eq_true, bne_iff_ne, ne_eq, decide_eq_decide]
  split <;> split <;> omega

end Overflow

theorem carryOf_le_one (s : State) : carryOf s ≤ 1 := Bool.toNat_le _

section Results

variable (m : Byte) (t : State)

theorem afterAdd_a_toNat : (afterAdd m t).a.toNat = (t.a.toNat + m.toNat + carryOf t) % 256 := BitVec.toNat_ofNat _ _

theorem getFlag_c_afterAdd : getFlag .c (afterAdd m t).p = decide (255 < t.a.toNat + m.toNat + carryOf t) :=
  getFlag_withNVZC .c _ _ _ _

theorem getFlag_v_afterAdd :
    getFlag .v (afterAdd m t).p = (t.a.msb == m.msb && (afterAdd m t).a.msb != t.a.msb) := getFlag_withNVZC .v _ _ _ _

theorem afterSubtract_a_toNat :
    (afterSubtract m t).a.toNat = (t.a.toNat + 256 - m.toNat - (1 - carryOf t)) % 256 := BitVec.toNat_ofNat _ _

theorem getFlag_c_afterSubtract :
    getFlag .c (afterSubtract m t).p = decide (m.toNat + 1 ≤ t.a.toNat + carryOf t) := getFlag_withNVZC .c _ _ _ _

theorem getFlag_v_afterSubtract :
    getFlag .v (afterSubtract m t).p = (t.a.msb != m.msb && t.a.msb != (afterSubtract m t).a.msb) :=
  getFlag_withNVZC .v _ _ _ _

end Results

/-- Settles O38: A and the flags that addition and subtraction leave, V by the signs. -/
theorem overflowIsSignedOverflow : Obligations.OverflowIsSignedOverflow := by
  intro m v s t hwf hread c
  have hc : c ≤ 1 := carryOf_le_one t
  have hv := v.isLt
  obtain ⟨-, -, adc, sbc, -⟩ := addAndSubtract
  refine ⟨⟨_, (adc m s t hwf).1 v hread, afterAdd_a_toNat v t, ?carry, ?signedSum⟩,
    ⟨_, (sbc m s t hwf).1 v hread, ?difference, ?borrow, ?signedDifference⟩⟩
  case carry =>
    rw [getFlag_c_afterAdd, decide_eq_true_iff]
    exact Nat.succ_le_iff.symm
  case signedSum =>
    rw [getFlag_v_afterAdd]
    exact add_overflow_iff (afterAdd_a_toNat v t) hc
  case difference =>
    rw [afterSubtract_a_toNat]
    change (((_ - (1 - c)) % 256 : Nat) : Int) = _
    omega
  case borrow =>
    rw [getFlag_c_afterSubtract, decide_eq_true_iff]
    change _ ≤ _ + c ↔ _
    omega
  case signedDifference =>
    rw [getFlag_v_afterSubtract]
    exact subtract_overflow_iff (afterSubtract_a_toNat v t) hc

/-! What is pushed is pulled (R23). -/

theorem exec_pla (s : State) :
    exec .pla s = .next { s with
      sp := s.sp + 1, a := s.ram.read (0x100 + (s.sp + 1).toNat), p := withNZ (s.ram.read (0x100 + (s.sp + 1).toNat)) s.p } :=
  exec_setNZ ((s.setS (s.sp + 1)).setA _) _ rfl (body_pull (effect := fun v u => (u.setA v).setNZ v) rfl s)

theorem exec_plp (s : State) :
    exec .plp s = .next { s with sp := s.sp + 1, p := s.ram.read (0x100 + (s.sp + 1).toNat) ||| 0x20 } :=
  exec_ok rfl (body_pull (effect := State.setP) rfl s)

/-- Settles O53: each pull reads the slots of its push, since S has wrapped back to where it was. -/
theorem stackRoundTrips : Obligations.StackRoundTrips := by
  intro s hram
  have back1 : s.sp - 1 + 1 = s.sp := by bv_omega
  have back2 : s.sp - 2 + 2 = s.sp ∧ s.sp - 2 + 1 = s.sp - 1 := by constructor <;> bv_omega
  have back3 : s.sp - 3 + 3 = s.sp ∧ s.sp - 3 + 2 = s.sp - 1 ∧ s.sp - 3 + 1 = s.sp - 2 := by refine ⟨?_, ?_, ?_⟩ <;> bv_omega
  refine ⟨?pha, ?php, fun w => ?jsr, ?brk⟩
  case pha =>
    refine ⟨_, _, exec_ok rfl (push_eq s s.a), exec_pla _, ?_⟩
    simp only [back1, Memory.read_write_same hram, and_self]
  case php =>
    refine ⟨_, _, exec_ok rfl (push_eq s (s.p ||| 0x30)), exec_plp _, ?_⟩
    have forced : ∀ p : Byte, p ||| 0x30 ||| 0x20 = p ||| 0x30 := by decide
    simp only [back1, Memory.read_write_same hram, forced, and_self]
  case jsr =>
    obtain ⟨first, second, -⟩ := pushes_jsr hram s.sp (hi (s.pc - 1)) (lo (s.pc - 1)) w
    refine ⟨_, _, exec_ok rfl (callSubroutine_eq s w), rfl, exec_ok rfl (returnFromSubroutine_eq _), ?_⟩
    simp only [back2, first, second, word_hi_lo, BitVec.sub_add_cancel, and_self]
  case brk =>
    obtain ⟨first, second, third, -⟩ := pushes_brk hram s.sp (hi (s.pc + 1)) (lo (s.pc + 1)) (s.p ||| 0x30)
    refine ⟨_, _, exec_ok rfl (softwareInterrupt_eq s), exec_ok rfl (returnFromTrap_eq _), ?_⟩
    have forced : ∀ p : Byte, (p ||| 0x30 ||| 0x20) &&& 0xEF = (p ||| 0x20) &&& 0xEF := by decide
    simp only [back3, first, second, third, word_hi_lo, forced, and_self]

end Sys2Proof.Machine

/-! PROOF. What holds of every instruction (10_state.md R21 to R23; 40_addressing.md R144; 60_exceptions.md R361, R373): the shapes of
their lines, when they complete, what they record when they do not, and what they leave unchanged. -/

namespace Sys2Proof.Machine

/-! The shapes of an instruction's lines. -/

/-- Every mode but the accumulator, immediate, implied, relative and indirect ones resolves to an address. -/
def Mode.located (m : Mode) : Prop := ∀ s, ∃ a, resolve m s = .ok (.ea a) s

theorem located_of {m : Mode} {l : List AddrMode} (h : m.among l = true)
    (hl : ∀ a ∈ l, a ∈ [.zeropage, .zeropageX, .zeropageY, .absolute, .absoluteX, .absoluteY, .indirectX, .indirectY]) :
    Mode.located m := by
  have hm : m.addrMode ∈ l := by simpa [Mode.among] using h
  exact fun s => resolve_ea s m (by simpa [Mode.among] using hl _ hm)

theorem accumulator_or_located {m : Mode} (h : m.among shiftModes = true) : m = .accumulator ∨ Mode.located m := by
  cases m with
  | accumulator => exact .inl rfl
  | zeropage _ | zeropageX _ | absolute _ | absoluteX _ =>
    exact .inr (located_of (l := [.zeropage, .zeropageX, .absolute, .absoluteX]) rfl (by decide))
  | _ => cases h

/-- What the lines of a well-formed instruction are, with what the lists of Safety say of an instruction of that shape. -/
inductive Shape (i : Instr) : Prop where
  /-- No data is accessed beyond bytes pulled, and only CPU registers change. -/
  | cpu (effect : State → State) (lines : ∀ s, body i s = .ok () (effect s)) (keeps : ∀ s, CpuOnly s (effect s))
      (kind : isStore i = false ∧ isReadModifyWrite i = false) (noData : ∀ s, dataAddress i s = none)
  | reads (effect : Byte → State → State) (lines : body i = reading i.mode effect) (keeps : ∀ v s, CpuOnly s (effect v s))
      (kind : isStore i = false ∧ isReadModifyWrite i = false) (readable : Mode.readable i.mode)
  | stores (source : State → Byte) (lines : body i = storing i.mode source) (value : ∀ s, storedValue i s = some (source s))
      (kind : isStore i = true ∧ isReadModifyWrite i = false) (located : Mode.located i.mode)
  /-- At $4014, which reads as $00, no read-modify-write instruction writes the number of a page in the hole. -/
  | modifies {β : Type} (compute : Byte → State → Byte × β) (effect : Byte → β → State → State)
      (lines : body i = modifying i.mode compute effect) (keeps : ∀ r b s, CpuOnly s (effect r b s))
      (kind : isStore i = false ∧ isReadModifyWrite i = true) (located : i.mode = .accumulator ∨ Mode.located i.mode)
      (page : ∀ s, ¬ (0x40 ≤ (compute 0x00 s).1.toNat ∧ (compute 0x00 s).1.toNat ≤ 0x7F))
  | pushes (completes : ∀ s, ∃ t, body i s = .ok () t) (push : isPush i = true)
      (kind : isStore i = false ∧ isReadModifyWrite i = false) (noData : isJump i = true ∨ ∀ s, dataAddress i s = none)
  | jump (m : Mode) (h : i = .jmp m)
  | faults (h : faulting i = true) (lines : body i = stop .illegalOpcode)
      (kind : isStore i = false ∧ isReadModifyWrite i = false)

theorem cpuOnly_branch (f : Flag) (b : Bool) (d : Byte) (s : State) :
    CpuOnly s (if s.flag f = b then s.setPc (branchTarget s.pc d) else s) := by
  split
  · exact cpuOnly_setPc s _
  · exact .refl s

theorem reserved_pulled (v : Byte) : getFlag .r ((v ||| 0x20) &&& 0xEF) = true := by
  rw [getFlag_and, getFlag_or, Bool.and_eq_true, Bool.or_eq_true]
  exact ⟨.inr rfl, rfl⟩

/-- NOP reads its operand, if it has one. -/
theorem shape_nop {op : Byte} {m : Mode} (hwf : (Instr.nop op m).wf = true) : Shape (.nop op m) := by
  cases m with
  | implied => exact .cpu id (fun _ => rfl) .refl ⟨rfl, rfl⟩ fun _ => rfl
  | immediate _ | zeropage _ | zeropageX _ | absolute _ | absoluteX _ =>
    exact .reads _ rfl (fun _ s => .refl s) ⟨rfl, rfl⟩ rfl
  | _ => cases hwf

/-- Every instruction of the machine has one of these shapes. -/
theorem shape {i : Instr} (hwf : i.wf = true) : Shape i := by
  have nz := cpuOnly_setNZ
  cases i with
  | lda m => exact .reads _ rfl (fun v s => (cpuOnly_setA s v).trans (nz _ v)) ⟨rfl, rfl⟩ (readable_of hwf (by decide))
  | ldx m => exact .reads _ rfl (fun v s => (cpuOnly_setX s v).trans (nz _ v)) ⟨rfl, rfl⟩ (readable_of hwf (by decide))
  | ldy m => exact .reads _ rfl (fun v s => (cpuOnly_setY s v).trans (nz _ v)) ⟨rfl, rfl⟩ (readable_of hwf (by decide))
  | lax m =>
    exact .reads _ rfl (fun _ s => ((cpuOnly_setA s _).trans (cpuOnly_setX _ _)).trans (nz _ _)) ⟨rfl, rfl⟩
      (readable_of hwf (by decide))
  | adc m => exact .reads _ rfl (fun v s => cpuOnly_addToA s v) ⟨rfl, rfl⟩ (readable_of hwf (by decide))
  | sbc m => exact .reads _ rfl (fun v s => cpuOnly_subtractFromA s v) ⟨rfl, rfl⟩ (readable_of hwf (by decide))
  | and m | ora m | eor m => exact .reads _ rfl (fun v s => cpuOnly_logicA s _ v) ⟨rfl, rfl⟩ (readable_of hwf (by decide))
  | bit m => exact .reads _ rfl (fun v s => cpuOnly_bitTest s v) ⟨rfl, rfl⟩ (readable_of hwf (by decide))
  | cmp m | cpx m | cpy m => exact .reads _ rfl (fun v s => cpuOnly_compare s _ v) ⟨rfl, rfl⟩ (readable_of hwf (by decide))
  | nop op m => exact shape_nop hwf
  | anc op v =>
    exact .reads _ rfl (fun _ s => (cpuOnly_logicA s _ _).trans (cpuOnly_setFlag _ (by decide) _)) ⟨rfl, rfl⟩ rfl
  | alr v =>
    exact .reads _ rfl (fun _ s => ((cpuOnly_setA s _).trans (cpuOnly_setFlag _ (by decide) _)).trans (nz _ _)) ⟨rfl, rfl⟩ rfl
  | arr v =>
    exact .reads _ rfl (fun _ s => (((cpuOnly_setA s _).trans (nz _ _)).trans (cpuOnly_setFlag _ (by decide) _)).trans
      (cpuOnly_setFlag _ (by decide) _)) ⟨rfl, rfl⟩ rfl
  | sbx v =>
    exact .reads _ rfl (fun _ s => ((cpuOnly_setFlag s (by decide) _).trans (cpuOnly_setX _ _)).trans (nz _ _)) ⟨rfl, rfl⟩ rfl
  | usbc v => exact .reads _ rfl (fun v s => cpuOnly_subtractFromA s v) ⟨rfl, rfl⟩ rfl
  | sta m | stx m | sty m | sax m => exact .stores _ rfl (fun _ => rfl) ⟨rfl, rfl⟩ (located_of hwf (by decide))
  | inc m | dec m =>
    exact .modifies _ _ rfl (fun r _ s => nz s r) ⟨rfl, rfl⟩ (.inr (located_of hwf (by decide))) fun _ => by decide
  | asl m | lsr m =>
    exact .modifies _ _ rfl (fun r c s => cpuOnly_shiftFlags s r c) ⟨rfl, rfl⟩ (accumulator_or_located hwf) fun _ => by decide
  | rol m | ror m =>
    exact .modifies _ _ rfl (fun r c s => cpuOnly_shiftFlags s r c) ⟨rfl, rfl⟩ (accumulator_or_located hwf)
      fun s => by cases s.flag .c <;> decide
  | slo m | sre m =>
    exact .modifies _ _ rfl (fun r c s => cpuOnly_carry_logicA s _ r c) ⟨rfl, rfl⟩ (.inr (located_of hwf (by decide)))
      fun _ => by decide
  | rla m =>
    exact .modifies _ _ rfl (fun r c s => cpuOnly_carry_logicA s _ r c) ⟨rfl, rfl⟩ (.inr (located_of hwf (by decide)))
      fun s => by cases s.flag .c <;> decide
  | rra m =>
    exact .modifies _ _ rfl (fun r c s => cpuOnly_carry_addToA s r c) ⟨rfl, rfl⟩ (.inr (located_of hwf (by decide)))
      fun s => by cases s.flag .c <;> decide
  | dcp m =>
    exact .modifies _ _ rfl (fun r _ s => cpuOnly_compare s s.a r) ⟨rfl, rfl⟩ (.inr (located_of hwf (by decide)))
      fun _ => by decide
  | isc m =>
    exact .modifies _ _ rfl (fun r _ s => cpuOnly_subtractFromA s r) ⟨rfl, rfl⟩ (.inr (located_of hwf (by decide)))
      fun _ => by decide
  | tax | tsx | inx | dex => exact .cpu _ (fun _ => rfl) (fun s => (cpuOnly_setX s _).trans (nz _ _)) ⟨rfl, rfl⟩ fun _ => rfl
  | tay | iny | dey => exact .cpu _ (fun _ => rfl) (fun s => (cpuOnly_setY s _).trans (nz _ _)) ⟨rfl, rfl⟩ fun _ => rfl
  | txa | tya => exact .cpu _ (fun _ => rfl) (fun s => (cpuOnly_setA s _).trans (nz _ _)) ⟨rfl, rfl⟩ fun _ => rfl
  | txs => exact .cpu _ (fun _ => rfl) (fun s => cpuOnly_setS s _) ⟨rfl, rfl⟩ fun _ => rfl
  | bpl d | bmi d | bvc d | bvs d | bcc d | bcs d | bne d | beq d =>
    exact .cpu _ (fun _ => rfl) (cpuOnly_branch _ _ d) ⟨rfl, rfl⟩ fun _ => rfl
  | clc | sec | cli | sei | cld | sed | clv =>
    exact .cpu _ (fun _ => rfl) (fun s => cpuOnly_setFlag s (by decide) _) ⟨rfl, rfl⟩ fun _ => rfl
  | pla =>
    exact .cpu _ (body_pull (effect := fun v u => (u.setA v).setNZ v) rfl)
      (fun s => ((cpuOnly_setS s _).trans (cpuOnly_setA _ _)).trans (nz _ _)) ⟨rfl, rfl⟩ fun _ => rfl
  | plp =>
    exact .cpu _ (body_pull (effect := State.setP) rfl) (fun s => (cpuOnly_setS s _).trans (cpuOnly_setP _ _)) ⟨rfl, rfl⟩
      fun _ => rfl
  | rts => exact .cpu _ returnFromSubroutine_eq (fun _ => ⟨rfl, id⟩) ⟨rfl, rfl⟩ fun _ => rfl
  | rti => exact .cpu _ returnFromTrap_eq (fun _ => ⟨rfl, fun _ => reserved_pulled _⟩) ⟨rfl, rfl⟩ fun _ => rfl
  | jsr w => exact .pushes (fun s => ⟨_, callSubroutine_eq s w⟩) rfl ⟨rfl, rfl⟩ (.inl rfl)
  | brk => exact .pushes (fun s => ⟨_, softwareInterrupt_eq s⟩) rfl ⟨rfl, rfl⟩ (.inr fun _ => rfl)
  | pha | php => exact .pushes (fun s => ⟨_, push_eq s _⟩) rfl ⟨rfl, rfl⟩ (.inr fun _ => rfl)
  | jmp m => exact .jump m rfl
  | jam _ | ane | lxa | sha _ | shx | shy | tas | las => exact .faults rfl rfl ⟨rfl, rfl⟩

theorem dataAddress_of_resolve {i : Instr} {s : State} {a : Word} (h : resolve i.mode s = .ok (.ea a) s) :
    dataAddress i s = some a := by
  rw [dataAddress, h]

theorem resolve_of_dataAddress {i : Instr} {s : State} {a : Word} (h : dataAddress i s = some a) :
    resolve i.mode s = .ok (.ea a) s := by
  unfold dataAddress at h
  split at h
  case h_1 hr =>
    cases h
    rw [hr, resolve_state s hr]
  case h_2 => cases h

/-- JMP has the absolute and the indirect mode. -/
theorem jmp_mode {m : Mode} (hwf : (Instr.jmp m).wf = true) : (∃ w, m = .absolute w) ∨ ∃ p, m = .indirect p := by
  cases m with
  | absolute w => exact .inl ⟨w, rfl⟩
  | indirect p => exact .inr ⟨p, rfl⟩
  | _ => cases hwf

/-- Only the four stores store a value of their own. -/
theorem storedValue_shape {i : Instr} {s : State} {v : Byte} (h : storedValue i s = some v) : isStore i = true := by
  cases i with
  | sta _ | stx _ | sty _ | sax _ => rfl
  | _ => cases h

end Sys2Proof.Machine

/-! PROOF. When an instruction completes, and what it records when it does not (60_exceptions.md R361, R362, R373). -/

namespace Sys2Proof.Machine

/-- Settles O51: an instruction's lines leave phase and fault alone, so only a recorded fault changes them. -/
theorem everyInstructionAnswersNext : Obligations.EveryInstructionAnswersNext := by
  refine fun i s => ⟨fun hwf => ?answers, fun hwf => exec_invalid hwf s⟩
  obtain ⟨u, kept, h | ⟨cls, h⟩⟩ := exec_outcome outside_frame hwf s
  · exact ⟨u, h, .inl ⟨kept.phase, kept.fault⟩⟩
  · exact ⟨_, h, .inr ⟨rfl, rfl⟩⟩

/-! Operands in the hole. -/

/-- An effective address in the hole ends the lines at their first access, with nothing changed. -/
theorem body_unmapped {i : Instr} {s : State} {a : Word} (hwf : i.wf = true) (hf : faulting i = false) (hj : isJump i = false)
    (ha : dataAddress i s = some a) (hm : mapped a = false) :
    body i s = .error (.unmapped a (if isStore i then .write else .read)) s := by
  have hr := resolve_of_dataAddress ha
  cases shape hwf with
  | cpu effect lines keeps kind noData => rw [noData s] at ha; cases ha
  | reads effect lines keeps kind readable =>
    rw [lines, kind.1]
    exact reading_error ((readOperand_ea hr).trans (busRead_unmapped s hm)) effect
  | stores source lines value kind located =>
    rw [lines, kind.1, storing_ea hr]
    exact busWrite_unmapped s hm _
  | modifies compute effect lines keeps kind located page =>
    rw [lines, kind.1]
    exact modifying_ea_error hr (busRead_unmapped s hm) compute effect
  | pushes completes push kind noData =>
    rcases noData with hjump | hnone
    · rw [hj] at hjump; cases hjump
    · rw [hnone s] at ha; cases ha
  | jump m h => subst h; cases hj
  | faults h lines kind => rw [hf] at h; cases h

/-- A store to the OAM-DMA port runs the copies of the page it names. -/
theorem body_store_dma {i : Instr} {s : State} {v : Byte} (hwf : i.wf = true) (hv : storedValue i s = some v)
    (ha : dataAddress i s = some 0x4014) : body i s = busWrite 0x4014 v s := by
  have hstore := storedValue_shape hv
  have hr := resolve_of_dataAddress ha
  cases shape hwf with
  | stores source lines value kind located =>
    obtain rfl : source s = v := by simpa [value s] using hv
    rw [lines, storing_ea hr]
  | cpu _ _ _ kind | reads _ _ _ kind | modifies _ _ _ _ kind | pushes _ _ kind | faults _ _ kind =>
    rw [kind.1] at hstore
    cases hstore
  | jump m h => subst h; cases hstore

/-- Settles O50: the first access in the hole ends the lines, and nothing before it changed the state. -/
theorem unmappedOperandIsRecorded : Obligations.UnmappedOperandIsRecorded := by
  refine ⟨fun i s a hwf hf hj ha hm => ?operand, fun p s hp => ?pointer, fun s => ?pointerEnd, fun i s v hwf hv ha h h' => ?page⟩
  case operand => exact stopsUnmapped_of_body hwf (body_unmapped hwf hf hj ha hm)
  case pointer => exact stopsUnmapped_of_body rfl (body_jmp_error (bind_error (busRead_unmapped s hp) _))
  case pointerEnd =>
    have low : busRead 0x4017 s = .ok 0x00 s := busRead_audio s (by decide) (by decide) (by decide)
    have high : busRead 0x4018 s = .error (.unmapped 0x4018 .read) s := busRead_unmapped s rfl
    refine stopsUnmapped_of_body rfl (body_jmp_error ?_)
    rw [resolveTarget, bind_ok low]
    exact bind_error high _
  case page => exact stopsUnmapped_of_body hwf ((body_store_dma hwf hv ha).trans (busWrite_dma_unmapped v s h h'))

/-! Operands outside the hole. -/

theorem jump_cases {i : Instr} (h : isJump i = true) : (∃ m, i = .jmp m) ∨ ∃ w, i = .jsr w := by
  cases i with
  | jmp m => exact .inl ⟨m, rfl⟩
  | jsr w => exact .inr ⟨w, rfl⟩
  | _ => cases h

/-- A pointer's second byte is mapped where its first is, but for the pointer at $4017. -/
theorem mapped_pointer_high {p : Word} (h : mapped p = true) (hp : p ≠ 0x4017) : mapped (word (hi p) (lo p + 1)) = true := by
  have hlt := p.isLt
  have hne : p.toNat ≠ 0x4017 := fun e => hp (BitVec.eq_of_toNat_eq e)
  rw [mapped_iff] at h ⊢
  rw [word_hi_lo_add_one, BitVec.toNat_ofNat]
  omega

theorem resolveTarget_completes {m : Mode} (hwf : (Instr.jmp m).wf = true) (s : State)
    (hm : ∀ p, m = .indirect p → mapped p = true ∧ p ≠ 0x4017) : ∃ w t, resolveTarget m s = .ok w t := by
  rcases jmp_mode hwf with ⟨w, rfl⟩ | ⟨p, rfl⟩
  · exact ⟨w, s, rfl⟩
  · obtain ⟨hp, hend⟩ := hm p rfl
    obtain ⟨l, t, low⟩ := busRead_mapped s hp
    obtain ⟨h, u, high⟩ := busRead_mapped t (mapped_pointer_high hp hend)
    exact ⟨_, u, resolveTarget_indirect low high⟩

theorem readOperand_completes {m : Mode} (hm : Mode.readable m) {s : State}
    (ha : ∀ a, resolve m s = .ok (.ea a) s → mapped a = true) : ∃ v t, readOperand m s = .ok v t := by
  obtain ⟨l, hl⟩ := resolve_ok s m hm
  rcases resolve_loc s hl with ⟨-, rfl⟩ | ⟨v, -, rfl⟩ | ⟨a, rfl⟩
  · exact ⟨s.a, s, rfl⟩
  · exact ⟨v, s, rfl⟩
  · rw [readOperand_ea hl]
    exact busRead_mapped s (ha a hl)

/-- A write completes at a mapped address, if it names no page in the hole to OAM-DMA. -/
theorem busWrite_completes {a : Word} (h : mapped a = true) {v : Byte}
    (hd : a = 0x4014 → ¬(0x40 ≤ v.toNat ∧ v.toNat ≤ 0x7F)) (s : State) : ∃ t, busWrite a v s = .ok () t := by
  by_cases ha : a = 0x4014
  · subst ha
    exact (busWrite_dma_completes_iff v s).mpr (hd rfl)
  · exact busWrite_mapped s h ha v

/-- A read-modify-write's write follows its read; at the OAM-DMA port the byte read is $00. -/
theorem modifying_completes {β : Type} {m : Mode} {s : State} {a : Word} (hr : resolve m s = .ok (.ea a) s)
    (h : mapped a = true) (compute : Byte → State → Byte × β) (effect : Byte → β → State → State)
    (page : ¬ (0x40 ≤ (compute 0x00 s).1.toNat ∧ (compute 0x00 s).1.toNat ≤ 0x7F)) :
    ∃ t, modifying m compute effect s = .ok () t := by
  obtain ⟨v, t, read⟩ := busRead_mapped s h
  have hd : a = 0x4014 → ¬(0x40 ≤ (compute v t).1.toNat ∧ (compute v t).1.toNat ≤ 0x7F) := by
    rintro rfl
    rw [busRead_audio s (by decide) (by decide) (by decide)] at read
    cases read
    exact page
  obtain ⟨u, write⟩ := busWrite_completes h hd t
  exact ⟨_, modifying_ea hr read compute effect write⟩

/-- An executed instruction that is no jump runs to its end where its operand is mapped. -/
theorem body_completes {i : Instr} {s : State} (hwf : i.wf = true) (hf : faulting i = false) (hj : isJump i = false)
    (ha : ∀ a, dataAddress i s = some a → mapped a = true)
    (hd : dataAddress i s = some 0x4014 → ∀ v, storedValue i s = some v → v.toNat < 0x40 ∨ 0x80 ≤ v.toNat) :
    ∃ t, body i s = .ok () t := by
  have operand {a : Word} (hr : resolve i.mode s = .ok (.ea a) s) : mapped a = true := ha a (dataAddress_of_resolve hr)
  cases shape hwf with
  | cpu effect lines keeps kind noData => exact ⟨_, lines s⟩
  | reads effect lines keeps kind readable =>
    obtain ⟨v, t, read⟩ := readOperand_completes readable fun _ => operand
    rw [lines]
    exact ⟨_, reading_ok read effect⟩
  | stores source lines value kind located =>
    obtain ⟨a, hr⟩ := located s
    rw [lines, storing_ea hr]
    refine busWrite_completes (operand hr) (fun hport => ?_) s
    have page := hd (hport ▸ dataAddress_of_resolve hr) _ (value s)
    omega
  | modifies compute effect lines keeps kind located page =>
    rw [lines]
    rcases located with hm | located
    · rw [hm]
      exact ⟨_, modifying_accumulator compute effect⟩
    · obtain ⟨a, hr⟩ := located s
      exact modifying_completes hr (operand hr) compute effect (page s)
  | pushes completes push kind noData => exact completes s
  | jump m h => subst h; cases hj
  | faults h lines kind => rw [hf] at h; cases h

/-- Settles O52: the lines run to their end, and lines leave phase and fault alone. -/
theorem everyExecutedInstructionCompletes : Obligations.EveryExecutedInstructionCompletes := by
  intro i s hwf hf ha hd hp
  have completes : ∃ t, body i s = .ok () t := by
    cases hj : isJump i with
    | false => exact body_completes hwf hf hj (ha hj) hd
    | true =>
      rcases jump_cases hj with ⟨m, rfl⟩ | ⟨w, rfl⟩
      · obtain ⟨w, t, target⟩ := resolveTarget_completes hwf s fun p hm => hp p (hm ▸ rfl)
        exact ⟨_, body_jmp_ok target⟩
      · exact ⟨_, callSubroutine_eq s w⟩
  obtain ⟨t, lines⟩ := completes
  have kept := (outside_frame.body i).ok lines
  exact ⟨t, exec_ok hwf lines, kept.phase, kept.fault⟩

end Sys2Proof.Machine

/-! PROOF. What an instruction leaves unchanged, completed or ended by a fault (10_state.md R21 to R23; 40_addressing.md R144, R146;
20_memory.md R66). -/

namespace Sys2Proof.Machine

/-- The state after an instruction is the one its lines leave, or that one with a fault recorded. -/
theorem exec_next {i : Instr} {s t : State} (h : exec i s = .next t) :
    i.wf = true ∧ (t = after (body i s) ∨ ∃ cls op pc, t = (after (body i s)).recordFault cls op pc) := by
  rw [exec_eq] at h
  obtain ⟨hwf, hb | ⟨cls, u, op, pc, c, hb, rfl⟩⟩ := perform_next h
  · exact ⟨hwf, .inl (by rw [hb, after_ok])⟩
  · exact ⟨hwf, .inr ⟨cls, op, pc, by rw [hb, after_error]⟩⟩

/-! The registers an instruction is not listed for (R21 to R23). -/

/-- From one state to the other, A, X, Y and S are the same wherever the instruction is not listed as their writer. -/
structure RegistersKept (i : Instr) (s t : State) : Prop where
  a : writesA i = false → t.a = s.a
  x : writesX i = false → t.x = s.x
  y : writesY i = false → t.y = s.y
  sp : writesS i = false → t.sp = s.sp

namespace RegistersKept

variable {i : Instr} {s t u : State}

theorem trans (h : RegistersKept i s t) (h' : RegistersKept i t u) : RegistersKept i s u :=
  ⟨fun w => (h'.a w).trans (h.a w), fun w => (h'.x w).trans (h.x w), fun w => (h'.y w).trans (h.y w),
    fun w => (h'.sp w).trans (h.sp w)⟩

theorem all (a : t.a = s.a) (x : t.x = s.x) (y : t.y = s.y) (sp : t.sp = s.sp) : RegistersKept i s t :=
  ⟨fun _ => a, fun _ => x, fun _ => y, fun _ => sp⟩

theorem exceptA (w : writesA i = true) (x : t.x = s.x) (y : t.y = s.y) (sp : t.sp = s.sp) : RegistersKept i s t :=
  ⟨fun h => absurd (w.symm.trans h) (by decide), fun _ => x, fun _ => y, fun _ => sp⟩

theorem exceptX (w : writesX i = true) (a : t.a = s.a) (y : t.y = s.y) (sp : t.sp = s.sp) : RegistersKept i s t :=
  ⟨fun _ => a, fun h => absurd (w.symm.trans h) (by decide), fun _ => y, fun _ => sp⟩

theorem exceptY (w : writesY i = true) (a : t.a = s.a) (x : t.x = s.x) (sp : t.sp = s.sp) : RegistersKept i s t :=
  ⟨fun _ => a, fun _ => x, fun h => absurd (w.symm.trans h) (by decide), fun _ => sp⟩

theorem exceptS (w : writesS i = true) (a : t.a = s.a) (x : t.x = s.x) (y : t.y = s.y) : RegistersKept i s t :=
  ⟨fun _ => a, fun _ => x, fun _ => y, fun h => absurd (w.symm.trans h) (by decide)⟩

theorem of_sameCpu (h : SameCpu s t) : RegistersKept i s t := all h.a h.x h.y h.sp

end RegistersKept

section RegisterWriters

variable (i : Instr)

theorem registersKept_frame : AccessFrame (RegistersKept i) where
  refl _ := .all rfl rfl rfl rfl
  trans _ _ _ := RegistersKept.trans
  read a := .mono (fun _ _ => .of_sameCpu) (busRead_sameCpu a)
  write a v := .mono (fun _ _ => .of_sameCpu) (busWrite_sameCpu a v)

variable {i}

/-- Only in the accumulator mode does a read-modify-write instruction write its result to A. -/
theorem registersKept_modifying {β : Type} {m : Mode} (hA : m = .accumulator → writesA i = true)
    (compute : Byte → State → Byte × β) {effect : Byte → β → State → State} (h : ∀ r b s, RegistersKept i s (effect r b s)) :
    Keeps (RegistersKept i) (modifying m compute effect) := by
  by_cases hm : m = .accumulator
  · exact (registersKept_frame i).modifying_of_setA (fun _ _ => .exceptA (hA hm) rfl rfl rfl) m compute h
  · exact (registersKept_frame i).modifying hm compute h

theorem registersKept_of_lines {effect : State → State} (lines : ∀ s, body i s = .ok () (effect s))
    (h : ∀ s, RegistersKept i s (effect s)) : Keeps (RegistersKept i) (body i) := by
  intro s
  rw [lines]
  exact h s

theorem registersKept_pull (hS : writesS i = true) {effect : Byte → State → State}
    (h : ∀ v s, RegistersKept i s (effect v s)) : Keeps (RegistersKept i) (do let v ← pull; update (effect v)) :=
  have F := registersKept_frame i
  .bind F.toFrame (F.pull fun _ _ => .exceptS hS rfl rfl rfl) fun v => .update (h v)

theorem registersKept_branch (f : Flag) (b : Bool) (d : Byte) : Keeps (RegistersKept i) (branch f b d) := by
  refine .update fun s => ?_
  split
  · exact .all rfl rfl rfl rfl
  · exact .all rfl rfl rfl rfl

theorem registersKept_discardOperand (m : Mode) : Keeps (RegistersKept i) (discardOperand m) := by
  have F := registersKept_frame i
  cases m with
  | implied => exact .pure F.toFrame _
  | _ => exact F.reading _ fun _ s => F.refl s

end RegisterWriters

/-- The lines of every instruction change only registers it is listed for, run to their end or not. (The read-modify-write cases
rewrite `body` to show its `modifying` first: matching it through the definition is slow.) -/
theorem registersKept_body {i : Instr} (hwf : i.wf = true) : Keeps (RegistersKept i) (body i) := by
  have F := registersKept_frame i
  cases i with
  | lda m | adc m | sbc m | and m | ora m | eor m => exact F.reading m fun _ _ => .exceptA rfl rfl rfl rfl
  | ldx m => exact F.reading m fun _ _ => .exceptX rfl rfl rfl rfl
  | ldy m => exact F.reading m fun _ _ => .exceptY rfl rfl rfl rfl
  | lax m => exact F.reading m fun _ _ => ⟨nofun, nofun, fun _ => rfl, fun _ => rfl⟩
  | bit m | cmp m | cpx m | cpy m => exact F.reading m fun _ _ => .all rfl rfl rfl rfl
  | sta m | stx m | sty m | sax m => exact F.storing (by rintro rfl; cases hwf) _
  | txa | tya => exact .update fun _ => .exceptA rfl rfl rfl rfl
  | tax | tsx | inx | dex => exact .update fun _ => .exceptX rfl rfl rfl rfl
  | tay | iny | dey => exact .update fun _ => .exceptY rfl rfl rfl rfl
  | txs => exact .update fun _ => .exceptS rfl rfl rfl rfl
  | inc m | dec m | dcp m =>
    rw [Machine.body]
    exact registersKept_modifying (by rintro rfl; cases hwf) _ fun _ _ _ => .all rfl rfl rfl rfl
  | asl m | lsr m | rol m | ror m =>
    rw [Machine.body]
    exact registersKept_modifying (by rintro rfl; rfl) _ fun _ _ _ => .all rfl rfl rfl rfl
  | slo m | rla m | sre m | rra m | isc m =>
    rw [Machine.body]
    exact registersKept_modifying (fun _ => rfl) _ fun _ _ _ => .exceptA rfl rfl rfl rfl
  | jmp m => exact .bind F.toFrame (F.resolveTarget m) fun _ => .update fun _ => .all rfl rfl rfl rfl
  | jsr w => exact registersKept_of_lines (callSubroutine_eq · w) fun _ => .exceptS rfl rfl rfl rfl
  | rts => exact registersKept_of_lines returnFromSubroutine_eq fun _ => .exceptS rfl rfl rfl rfl
  | rti => exact registersKept_of_lines returnFromTrap_eq fun _ => .exceptS rfl rfl rfl rfl
  | brk => exact registersKept_of_lines softwareInterrupt_eq fun _ => .exceptS rfl rfl rfl rfl
  | bpl d | bmi d | bvc d | bvs d | bcc d | bcs d | bne d | beq d => exact registersKept_branch _ _ d
  | pha | php => exact registersKept_of_lines (push_eq · _) fun _ => .exceptS rfl rfl rfl rfl
  | pla => exact registersKept_pull rfl fun _ _ => .exceptA rfl rfl rfl rfl
  | plp => exact registersKept_pull rfl fun _ _ => .all rfl rfl rfl rfl
  | clc | sec | cli | sei | cld | sed | clv => exact .update fun _ => .all rfl rfl rfl rfl
  | nop op m => exact registersKept_discardOperand m
  | anc _ _ | alr _ | arr _ | usbc _ => exact F.reading _ fun _ _ => .exceptA rfl rfl rfl rfl
  | sbx v => exact F.reading _ fun _ _ => .exceptX rfl rfl rfl rfl
  | jam _ | ane | lxa | sha _ | shx | shy | tas | las => exact .stop F.toFrame _

/-- Settles O54: the lines keep the registers and what is outside the CPU's reach, and so does recording a fault. -/
theorem registersNotListedAreUnchanged : Obligations.RegistersNotListedAreUnchanged := by
  intro i s t h
  obtain ⟨hwf, ht⟩ := exec_next h
  obtain ⟨ha, hx, hy, hs⟩ := registersKept_body hwf s
  obtain ⟨outside, -, -⟩ := outside_frame.body i s
  rcases ht with rfl | ⟨cls, op, pc, rfl⟩
  · exact ⟨ha, hx, hy, hs, outside⟩
  · exact ⟨ha, hx, hy, hs, outside.cart, outside.fb, outside.buttons, outside.calls, outside.notifications⟩

/-! The memories and the write-only PPU registers (R66, R144, R146). -/

/-- From one state to the other no memory and no write-only PPU register changes, nor what the cartridge holds. -/
structure MemoryKept (s t : State) : Prop extends SameMemory s t where
  cart : t.cart = s.cart

theorem MemoryKept.refl (s : State) : MemoryKept s s := ⟨⟨rfl, rfl, rfl, rfl, rfl, rfl, rfl, rfl, rfl, rfl⟩, rfl⟩

theorem MemoryKept.trans {s t u : State} (h : MemoryKept s t) (h' : MemoryKept t u) : MemoryKept s u :=
  ⟨⟨h'.ram.trans h.ram, h'.chrRam.trans h.chrRam, h'.vram.trans h.vram, h'.pal.trans h.pal, h'.oam.trans h.oam,
    h'.ctrl.trans h.ctrl, h'.mask.trans h.mask, h'.oamaddr.trans h.oamaddr, h'.scrollX.trans h.scrollX,
    h'.scrollY.trans h.scrollY⟩, h'.cart.trans h.cart⟩

theorem memoryKept_frame : Frame MemoryKept := ⟨.refl, fun _ _ _ => .trans⟩

theorem memoryKept_cpuOnly {s t : State} (h : CpuOnly s t) : MemoryKept s t := by
  rw [h.rest]
  exact ⟨⟨rfl, rfl, rfl, rfl, rfl, rfl, rfl, rfl, rfl, rfl⟩, rfl⟩

theorem memoryKept_recordFault (s : State) (cls : FaultClass) (op : Option Byte) (pc : Word) :
    MemoryKept s (s.recordFault cls op pc) := ⟨⟨rfl, rfl, rfl, rfl, rfl, rfl, rfl, rfl, rfl, rfl⟩, rfl⟩

theorem memoryKept_portRead (n : Nat) (s : State) : MemoryKept s (s.portRead n).2 := by
  unfold State.portRead
  split
  · exact ⟨⟨rfl, rfl, rfl, rfl, rfl, rfl, rfl, rfl, rfl, rfl⟩, rfl⟩
  · exact .refl s
  · rw [dataRead_frame]
    exact ⟨⟨rfl, rfl, rfl, rfl, rfl, rfl, rfl, rfl, rfl, rfl⟩, rfl⟩
  · exact .refl s

theorem memoryKept_joyRead (s : State) : MemoryKept s (joyRead s).2 := by
  rw [joyRead_frame]
  exact ⟨⟨rfl, rfl, rfl, rfl, rfl, rfl, rfl, rfl, rfl, rfl⟩, rfl⟩

theorem busRead_memoryKept (a : Word) : Keeps MemoryKept (busRead a) :=
  busRead_keeps memoryKept_frame memoryKept_portRead memoryKept_joyRead a

theorem readOperand_memoryKept {m : Mode} (hm : Mode.readable m) : Keeps MemoryKept (readOperand m) := by
  intro s
  obtain ⟨l, hl⟩ := resolve_ok s m hm
  rcases resolve_loc s hl with ⟨-, rfl⟩ | ⟨v, -, rfl⟩ | ⟨a, rfl⟩
  · exact .refl s
  · exact .refl s
  · rw [readOperand_ea hl]
    exact busRead_memoryKept a s

theorem body_jmp_memoryKept {m : Mode} (hwf : (Instr.jmp m).wf = true) : Keeps MemoryKept (body (.jmp m)) := by
  have F := memoryKept_frame
  have setPc (w : Word) : Keeps MemoryKept (update (State.setPc w)) := .update fun s => memoryKept_cpuOnly (cpuOnly_setPc s w)
  rcases jmp_mode hwf with ⟨w, rfl⟩ | ⟨p, rfl⟩
  · exact .bind F (.pure F w) setPc
  · exact .bind F (.bind F (busRead_memoryKept _) fun _ => .bind F (busRead_memoryKept _) fun _ => .pure F _) setPc

/-- The lines of an instruction that stores nothing keep every memory. -/
theorem body_memoryKept {i : Instr} (hwf : i.wf = true) (hstore : isStore i = false) (hpush : isPush i = false)
    (hmod : isReadModifyWrite i = false ∨ i.mode = .accumulator) : Keeps MemoryKept (body i) := by
  have F := memoryKept_frame
  intro s
  cases shape hwf with
  | cpu effect lines keeps kind noData =>
    rw [lines]
    exact memoryKept_cpuOnly (keeps s)
  | reads effect lines keeps kind readable =>
    rw [lines]
    exact Keeps.bind F (readOperand_memoryKept readable) (fun v => .update fun t => memoryKept_cpuOnly (keeps v t)) s
  | stores source lines value kind located => rw [hstore] at kind; cases kind.1
  | modifies compute effect lines keeps kind located page =>
    obtain hm : i.mode = .accumulator := hmod.resolve_left (by rw [kind.2]; decide)
    rw [lines, hm, modifying_accumulator]
    exact memoryKept_cpuOnly ((cpuOnly_setA s _).trans (keeps _ _ _))
  | pushes completes push kind noData => rw [hpush] at push; cases push
  | jump m h =>
    subst h
    exact body_jmp_memoryKept hwf s
  | faults h lines kind =>
    rw [lines]
    exact .refl s

/-- Settles O56: the lines keep every memory, and so does recording a fault. -/
theorem otherInstructionsLeaveMemory : Obligations.OtherInstructionsLeaveMemory := by
  intro i s t h hstore hpush hmod
  obtain ⟨hwf, ht⟩ := exec_next h
  have kept := body_memoryKept hwf hstore hpush hmod s
  rcases ht with rfl | ⟨cls, op, pc, rfl⟩
  · exact kept.toSameMemory
  · exact (kept.trans (memoryKept_recordFault _ cls op pc)).toSameMemory

end Sys2Proof.Machine

/-! PROOF. What a store and a push change (40_addressing.md R144, R146; 20_memory.md R66, R70 to R73). -/

namespace Sys2Proof.Machine

theorem ppuRead_memoryKept {s t : State} (h : MemoryKept s t) (k : Nat) : t.ppuRead k = s.ppuRead k := by
  simp only [State.ppuRead, State.chrRead, h.cart, h.chrRam, h.vram, h.pal]

theorem samePpuCell_congr {s t : State} (h : t.cart = s.cart) (a k : Nat) : samePpuCell t a k = samePpuCell s a k := by
  simp only [samePpuCell, h]

/-- From `s` to `t` nothing changes but the byte that a write to address `a` in state `u` reaches, or the port it names. -/
structure WritesOnly (a : Word) (s u t : State) : Prop where
  ram : ∀ k, a.toNat ≤ 0x1FFF ∧ k = a.toNat % 0x800 ∨ t.ram.read k = s.ram.read k
  oam : ∀ k, isPort 4 a = true ∧ k = u.oamaddr.toNat ∨ a = 0x4014 ∨ t.oam.read k = s.oam.read k
  ppu : ∀ k, isPort 7 a = true ∧ samePpuCell s u.vaddr.toNat k = true ∨ t.ppuRead k = s.ppuRead k
  ctrl : isPort 0 a = true ∨ t.ctrl = s.ctrl
  mask : isPort 1 a = true ∨ t.mask = s.mask
  oamaddr : isPort 3 a = true ∨ isPort 4 a = true ∨ t.oamaddr = s.oamaddr
  scroll : isPort 5 a = true ∨ (t.scrollX = s.scrollX ∧ t.scrollY = s.scrollY)

namespace WritesOnly

variable {a : Word} {s u t t' : State}

theorem of_memoryKept (h : MemoryKept s t) : WritesOnly a s u t where
  ram k := .inr (by rw [h.ram])
  oam k := .inr (.inr (by rw [h.oam]))
  ppu k := .inr (ppuRead_memoryKept h k)
  ctrl := .inr h.ctrl
  mask := .inr h.mask
  oamaddr := .inr (.inr h.oamaddr)
  scroll := .inr ⟨h.scrollX, h.scrollY⟩

/-- What follows the write keeps every memory. -/
theorem trans_memoryKept (h : WritesOnly a s u t) (h' : MemoryKept t t') : WritesOnly a s u t' where
  ram k := by rw [h'.ram]; exact h.ram k
  oam k := by rw [h'.oam]; exact h.oam k
  ppu k := by rw [ppuRead_memoryKept h']; exact h.ppu k
  ctrl := by rw [h'.ctrl]; exact h.ctrl
  mask := by rw [h'.mask]; exact h.mask
  oamaddr := by rw [h'.oamaddr]; exact h.oamaddr
  scroll := by rw [h'.scrollX, h'.scrollY]; exact h.scroll

/-- What comes before the write keeps every memory. -/
theorem of_memoryKept_before (h : MemoryKept s u) (h' : WritesOnly a u u t) : WritesOnly a s u t where
  ram k := by rw [← h.ram]; exact h'.ram k
  oam k := by rw [← h.oam]; exact h'.oam k
  ppu k := by rw [← ppuRead_memoryKept h, ← samePpuCell_congr h.cart]; exact h'.ppu k
  ctrl := by rw [← h.ctrl]; exact h'.ctrl
  mask := by rw [← h.mask]; exact h'.mask
  oamaddr := by rw [← h.oamaddr]; exact h'.oamaddr
  scroll := by rw [← h.scrollX, ← h.scrollY]; exact h'.scroll

end WritesOnly

/-! One write, by the range of its address. -/

/-- From one state to the other no memory but OAM changes. -/
def OamOnly (s t : State) : Prop := MemoryKept { s with oam := t.oam } t

theorem OamOnly.of_memoryKept {s t : State} (h : MemoryKept s t) : OamOnly s t := { h with oam := rfl }

theorem oamOnly_frame : Frame OamOnly where
  refl s := .of_memoryKept (.refl s)
  trans s t u h h' :=
    have setOam : MemoryKept { s with oam := u.oam } { t with oam := u.oam } := { h with oam := rfl }
    setOam.trans h'

theorem busWrite_dma_oamOnly (v : Byte) : Keeps OamOnly (busWrite 0x4014 v) :=
  oamDmaFrom_keeps oamOnly_frame (fun a => .mono (fun _ _ => .of_memoryKept) (busRead_memoryKept a))
    (fun _ _ _ _ => MemoryKept.refl _) v 256

/-- From $4000 on only the OAM-DMA port reaches a memory. -/
theorem busWrite_memoryKept {a : Word} (ha : 0x4000 ≤ a.toNat) (hd : a ≠ 0x4014) (v : Byte) : Keeps MemoryKept (busWrite a v) := by
  unfold busWrite
  rw [if_neg (by bv_omega), if_neg (by bv_omega), if_neg hd]
  repeat' split
  · exact .update fun s => ⟨⟨rfl, rfl, rfl, rfl, rfl, rfl, rfl, rfl, rfl, rfl⟩, rfl⟩
  · exact .update .refl
  · exact .update .refl
  · exact .stop memoryKept_frame _

section OneWrite

variable {a : Word} {s : State} (v : Byte)

theorem ramWrite_writesOnly (hwf : s.ram.wf) (ha : a.toNat ≤ 0x1FFF) : WritesOnly a s s (s.ramWrite a v) :=
  { WritesOnly.of_memoryKept (.refl s) with
    ram := fun k => (em (k = a.toNat % 0x800)).imp (fun hk => ⟨ha, hk⟩) fun hk => Memory.read_write_other hwf hk v }

theorem oamDataWrite_writesOnly (hwf : s.oam.wf) (hp : isPort 4 a = true) : WritesOnly a s s (s.oamDataWrite v) :=
  { WritesOnly.of_memoryKept (.refl s) with
    oam := fun k => (em (k = s.oamaddr.toNat)).imp (fun hk => ⟨hp, hk⟩) fun hk => .inr (Memory.read_write_other hwf hk v)
    oamaddr := .inr (.inl hp) }

theorem scrollWrite_writesOnly (hp : isPort 5 a = true) : WritesOnly a s s (s.scrollWrite v) := by
  unfold State.scrollWrite
  split <;> exact { WritesOnly.of_memoryKept (.refl s) with scroll := .inl hp }

theorem dataWrite_writesOnly (hchr : s.chrRam.wf) (hvram : s.vram.wf) (hpal : s.pal.wf) (hp : isPort 7 a = true) :
    WritesOnly a s s (s.dataWrite v) := by
  have read (k : Nat) : (s.dataWrite v).ppuRead k = if samePpuCell s s.vaddr.toNat k then v else s.ppuRead k :=
    ppuRead_ppuWrite k v _ hchr hvram hpal
  have ppu (k : Nat) : isPort 7 a = true ∧ samePpuCell s s.vaddr.toNat k = true ∨ (s.dataWrite v).ppuRead k = s.ppuRead k :=
    (em (samePpuCell s s.vaddr.toNat k = true)).imp (fun hk => ⟨hp, hk⟩) fun hk => by rw [read, if_neg hk]
  rw [dataWrite_eq, ppuWrite_frame] at ppu ⊢
  exact { WritesOnly.of_memoryKept (.refl s) with ppu := ppu }

theorem portWrite_writesOnly (hinv : Inv s) {n : Nat} (hp : isPort n a = true) : WritesOnly a s s (s.portWrite n v) := by
  unfold State.portWrite
  split
  case h_1 =>
    exact { WritesOnly.of_memoryKept (.refl s) with ctrl := .inl hp }
  case h_2 =>
    exact { WritesOnly.of_memoryKept (.refl s) with mask := .inl hp }
  case h_3 =>
    exact { WritesOnly.of_memoryKept (.refl s) with oamaddr := .inl hp }
  case h_4 => exact oamDataWrite_writesOnly v hinv.oam.1 hp
  case h_5 => exact scrollWrite_writesOnly v hp
  case h_6 =>
    rw [addrWrite_frame]
    exact .of_memoryKept ⟨⟨rfl, rfl, rfl, rfl, rfl, rfl, rfl, rfl, rfl, rfl⟩, rfl⟩
  case h_7 => exact dataWrite_writesOnly v hinv.chrRam.1 hinv.vram.1 hinv.pal.1 hp
  case h_8 => exact .of_memoryKept (.refl s)

/-- OAM-DMA reaches OAM and nothing else. -/
theorem dma_writesOnly (s : State) : WritesOnly 0x4014 s s (after (busWrite 0x4014 v s)) :=
  { WritesOnly.of_memoryKept (busWrite_dma_oamOnly v s) with oam := fun _ => .inr (.inl rfl) }

/-- A write of the bus reaches nothing but what its address names. -/
theorem busWrite_writesOnly (hinv : Inv s) (a : Word) : WritesOnly a s s (after (busWrite a v s)) := by
  by_cases hram : a.toNat ≤ 0x1FFF
  · rw [busWrite_ram s (by bv_omega)]
    exact ramWrite_writesOnly v hinv.ram.1 hram
  by_cases hport : a.toNat ≤ 0x3FFF
  · have port : isPort (a.toNat % 8) a = true := (isPort_iff _ a).mpr ⟨by omega, hport, rfl⟩
    rw [busWrite_isPort s port]
    exact portWrite_writesOnly v hinv port
  by_cases hdma : a = 0x4014
  · subst hdma
    exact dma_writesOnly v s
  · exact .of_memoryKept (busWrite_memoryKept (by omega) hdma v s)

end OneWrite

/-! The instructions that store. -/

section Stores

variable {m : Mode} {s u : State} {a : Word} {v : Byte}

theorem storing_writesOnly (hinv : Inv s) (hr : resolve m s = .ok (.ea a) s) (source : State → Byte) :
    WritesOnly a s s (after (storing m source s)) := by
  rw [storing_ea hr]
  exact busWrite_writesOnly _ hinv a

/-- A read-modify-write's write is made in the state its read left. -/
theorem modifying_writesOnly {β : Type} (hinv : Inv s) (hr : resolve m s = .ok (.ea a) s) (read : busRead a s = .ok v u)
    (compute : Byte → State → Byte × β) {effect : Byte → β → State → State} (keeps : ∀ r b s, CpuOnly s (effect r b s)) :
    WritesOnly a s u (after (modifying m compute effect s)) := by
  have hinv' : Inv u := (inv_frame.read a).ok read hinv
  have write := busWrite_writesOnly (compute v u).1 hinv' a
  refine .of_memoryKept_before ((busRead_memoryKept a).ok read) ?_
  cases hw : busWrite a (compute v u).1 u with
  | ok _ t =>
    rw [hw] at write
    rw [modifying_ea hr read compute effect hw]
    exact write.trans_memoryKept (memoryKept_cpuOnly (keeps _ _ t))
  | error c t =>
    rw [hw] at write
    rwa [modifying, bind_ok hr, bind_ok (show readOp (.ea a) s = .ok v u from read), look_bind,
      bind_error (show writeOp (compute v u).1 (.ea a) u = .error c t from hw)]

end Stores

theorem storeState_of_not_modify {i : Instr} (h : isReadModifyWrite i = false) (s : State) (a : Word) : storeState i s a = s := by
  simp only [storeState, h]

theorem storeState_of_read {i : Instr} {s t : State} {a : Word} {v : Byte} (h : isReadModifyWrite i = true)
    (read : busRead a s = .ok v t) : storeState i s a = t := by
  simp only [storeState, h, read]

/-- The lines of an instruction that stores reach nothing but what its effective address names. -/
theorem body_writesOnly {i : Instr} {s : State} {a : Word} (hinv : Inv s) (hwf : i.wf = true)
    (hst : isStore i = true ∨ isReadModifyWrite i = true) (ha : dataAddress i s = some a) :
    WritesOnly a s (storeState i s a) (after (body i s)) := by
  have hr := resolve_of_dataAddress ha
  cases shape hwf with
  | stores source lines value kind located =>
    rw [storeState_of_not_modify kind.2, lines]
    exact storing_writesOnly hinv hr source
  | modifies compute effect lines keeps kind located page =>
    rw [lines]
    cases read : busRead a s with
    | ok v u =>
      rw [storeState_of_read kind.2 read]
      exact modifying_writesOnly hinv hr read compute keeps
    | error c u =>
      rw [modifying_ea_error hr read compute effect]
      exact .of_memoryKept ((busRead_memoryKept a).error read)
  | cpu _ _ _ kind | reads _ _ _ kind | pushes _ _ kind | faults _ _ kind =>
    rw [kind.1, kind.2] at hst
    rcases hst with hst | hst <;> cases hst
  | jump m h =>
    subst h
    rcases hst with hst | hst <;> cases hst

/-! The instructions that push. -/

/-- A push changes RAM and, beyond the memories, only CPU registers. -/
theorem sameMemory_pushed (s : State) (m : Memory) (sp p : Byte) (pc : Word) :
    SameMemory { s with ram := m } { s with ram := m, sp := sp, p := p, pc := pc } :=
  ⟨rfl, rfl, rfl, rfl, rfl, rfl, rfl, rfl, rfl, rfl⟩

/-- What an instruction with one push leaves. -/
theorem exec_push_frame {i : Instr} {s t : State} {v : Byte} (hi : i.wf = true) (lines : body i s = push v s)
    (slots : pushedSlots i s.sp = [0x100 + s.sp.toNat]) (hram : s.ram.wf) (h : exec i s = .next t) :
    (∀ k, k ∈ pushedSlots i s.sp ∨ t.ram.read k = s.ram.read k) ∧ SameMemory { s with ram := t.ram } t := by
  obtain ⟨t', h', record, -, frame⟩ := exec_push hi lines slots hram
  obtain rfl : t' = t := by rw [h'] at h; cases h; rfl
  refine ⟨frame, ?_⟩
  rw [record]
  exact sameMemory_pushed s _ _ _ _

/-- Settles O57: the lines reach nothing but what their address or their slots name, and recording a fault keeps every memory. -/
theorem storesLeaveOtherBytes : Obligations.StoresLeaveOtherBytes := by
  refine ⟨fun i s t a hinv h hst ha => ?store, fun i s t hram h hpush => ?push⟩
  case store =>
    obtain ⟨hwf, ht⟩ := exec_next h
    have lines := body_writesOnly hinv hwf hst ha
    have writes : WritesOnly a s (storeState i s a) t := by
      rcases ht with rfl | ⟨cls, op, pc, rfl⟩
      · exact lines
      · exact lines.trans_memoryKept (memoryKept_recordFault _ cls op pc)
    exact ⟨writes.ram, writes.oam, writes.ppu, writes.ctrl, writes.mask, writes.oamaddr, writes.scroll⟩
  case push =>
    cases i with
    | pha => exact exec_push_frame rfl rfl rfl hram h
    | php => exact exec_push_frame (v := s.p ||| 0x30) rfl rfl rfl hram h
    | jsr w =>
      rw [exec_ok (i := .jsr w) rfl (callSubroutine_eq s w)] at h
      cases h
      exact ⟨(pushes_jsr hram s.sp _ _ w).2.2, sameMemory_pushed s _ _ _ _⟩
    | brk =>
      rw [exec_ok (i := .brk) rfl (softwareInterrupt_eq s)] at h
      cases h
      exact ⟨(pushes_brk hram s.sp _ _ _).2.2.2, sameMemory_pushed s _ _ _ _⟩
    | _ => cases hpush

end Sys2Proof.Machine
